-- ==== Sys2Proof/Word.lean ====
section
/-! DEFINITION. The word and sample types of the engine (spec/00_scope.md R6, spec/10_state.md R20). -/

namespace Sys2Proof

/-- A 32-bit word: one slot of the host register window, one command (R6, R52, R80).
Bit 0 is the least significant bit. -/
abbrev Word := BitVec 32

/-- A sample: the 8 bits of an int8 array entry (R5).  Its value is its two's-complement
reading `BitVec.toInt`, which is R6's `s8`. -/
abbrev Sample := BitVec 8

end Sys2Proof
end

