-- ==== Sys2Proof/Syntax.lean ====
section
/-! DEFINITION. The nine PREDICT commands as the assembler writes them (spec/30_encoding.md R88, R91). -/

namespace Sys2Proof

/-- The operands of a PREDICT command, `<flags>, <blkX>, <blkY>, <mbOffX>` (R91). -/
structure Operands where
  /-- `leftAvailable` (R82). -/
  la : Bool
  /-- `topAvailable` (R82). -/
  ta : Bool
  /-- `topRightAvailable` (R82). -/
  tra : Bool
  /-- Column offset of the block in the macroblock, in samples: 0, 4, 8 or 12 (R84). -/
  blkX : Nat
  /-- Row offset of the block in the macroblock, in samples: 0, 4, 8 or 12 (R84). -/
  blkY : Nat
  /-- Column offset of the macroblock into `TOPLINE`: 0 to 65535 (R86). -/
  mbOffX : Nat
  deriving DecidableEq, Repr

/-- One constructor per row of the opcode table (R88). -/
inductive Instr where
  /-- `pred.v`, Vertical, MODE 0 (R130). -/
  | predV (o : Operands)
  /-- `pred.h`, Horizontal, MODE 1 (R131). -/
  | predH (o : Operands)
  /-- `pred.dc`, DC, MODE 2 (R132). -/
  | predDc (o : Operands)
  /-- `pred.ddl`, Diagonal-Down-Left, MODE 3 (R133). -/
  | predDdl (o : Operands)
  /-- `pred.ddr`, Diagonal-Down-Right, MODE 4 (R134). -/
  | predDdr (o : Operands)
  /-- `pred.vr`, Vertical-Right, MODE 5 (R135). -/
  | predVr (o : Operands)
  /-- `pred.hd`, Horizontal-Down, MODE 6 (R136). -/
  | predHd (o : Operands)
  /-- `pred.vl`, Vertical-Left, MODE 7 (R137). -/
  | predVl (o : Operands)
  /-- `pred.hu`, Horizontal-Up, MODE 8 (R138). -/
  | predHu (o : Operands)
  deriving DecidableEq, Repr

/-- The operands of a command: all nine have the one format of R80. -/
def Instr.operands : Instr → Operands
  | .predV o => o
  | .predH o => o
  | .predDc o => o
  | .predDdl o => o
  | .predDdr o => o
  | .predVr o => o
  | .predHd o => o
  | .predVl o => o
  | .predHu o => o

/-- The prediction mode code of a command (R81). -/
def Instr.mode : Instr → Nat
  | .predV _ => 0
  | .predH _ => 1
  | .predDc _ => 2
  | .predDdl _ => 3
  | .predDdr _ => 4
  | .predVr _ => 5
  | .predHd _ => 6
  | .predVl _ => 7
  | .predHu _ => 8

end Sys2Proof
end

