-- ==== Sys2Proof/WellFormed.lean ====
section
/-! DEFINITION. Which operands the command word can express (spec/30_encoding.md R84, R86, R91). -/

namespace Sys2Proof

/-- R84: a block offset is 0, 4, 8 or 12; "any other value is an assembly error" (R91). -/
abbrev BlockOffset (n : Nat) : Prop := n % 4 = 0 ∧ n ≤ 12

/-- The operands the assembler accepts (R91).  Every combination of the flags is accepted (R82). -/
abbrev Operands.WellFormed (o : Operands) : Prop :=
  BlockOffset o.blkX ∧ BlockOffset o.blkY ∧ o.mbOffX ≤ 65535

/-- A command the assembler accepts. -/
abbrev Instr.WellFormed (i : Instr) : Prop := i.operands.WellFormed

end Sys2Proof
end

