-- ==== Sys2Proof/Decode.lean ====
section
/-! DEFINITION. The command word (spec/30_encoding.md R80 to R90): the decoder, total on every
32-bit word, and the encoder. -/

namespace Sys2Proof

/-- Why a word is no command (R89). -/
inductive DecodeError where
  /-- `w[15:12] != 0`, a reserved command class (R85). -/
  | reservedClass
  /-- `w[7] = 1`, the reserved bit (R83). -/
  | reservedBit
  /-- `w[3:0]` in 9..15, an out-of-range mode (R81). -/
  | modeOutOfRange
  deriving DecidableEq, Repr

/-- What a word decodes to. -/
inductive Decoded where
  /-- One of the nine commands. -/
  | instr (i : Instr)
  /-- An illegal word, with the first failing test of R89. -/
  | illegal (e : DecodeError)
  deriving DecidableEq, Repr

/-- `w[lo+len-1 : lo]` as an unsigned integer (R6). -/
def field (lo len : Nat) (w : Word) : Nat := (w.extractLsb' lo len).toNat

/-- The operands of a command word (R80, R87): the block indices are scaled by 4, and nothing is
sign-extended. -/
def decodeOperands (w : Word) : Operands where
  la := w.getLsbD 4
  ta := w.getLsbD 5
  tra := w.getLsbD 6
  blkX := 4 * field 8 2 w
  blkY := 4 * field 10 2 w
  mbOffX := field 16 16 w

/-- The command a mode code names (R81, R88); none of 9..15 names one. -/
def modeInstr (mode : Nat) (o : Operands) : Decoded :=
  match mode with
  | 0 => .instr (.predV o)
  | 1 => .instr (.predH o)
  | 2 => .instr (.predDc o)
  | 3 => .instr (.predDdl o)
  | 4 => .instr (.predDdr o)
  | 5 => .instr (.predVr o)
  | 6 => .instr (.predHd o)
  | 7 => .instr (.predVl o)
  | 8 => .instr (.predHu o)
  | _ => .illegal .modeOutOfRange

/-- Decode a command word (R88, R89), with the tests in R172's order. -/
def decodeWord (w : Word) : Decoded :=
  if field 12 4 w ≠ 0 then .illegal .reservedClass
  else if w.getLsbD 7 then .illegal .reservedBit
  else modeInstr (field 0 4 w) (decodeOperands w)

/-- The word of a well-formed command: the bit picture of R80, bit 31 on the left. -/
def encode (i : Instr) : Word :=
  BitVec.ofNat 16 i.operands.mbOffX ++ 0#4
    ++ BitVec.ofNat 2 (i.operands.blkY / 4) ++ BitVec.ofNat 2 (i.operands.blkX / 4) ++ 0#1
    ++ BitVec.ofBool i.operands.tra ++ BitVec.ofBool i.operands.ta ++ BitVec.ofBool i.operands.la
    ++ BitVec.ofNat 4 i.mode

/-- The word whose low `nbits` bits are those of `w` and whose other bits are 0. -/
def tableWord (nbits w : Nat) : Word := BitVec.ofNat 32 (w % 2 ^ nbits)

/-- The decoder on an opcode-table word: every command is exactly one 32-bit word (R80, R90). -/
def decodeTableWord (nbits w : Nat) : Option Instr :=
  if nbits ≤ 32 then
    match decodeWord (tableWord nbits w) with
    | .instr i => some i
    | .illegal _ => none
  else none

end Sys2Proof
end

