-- ==== Sys2Proof/Config.lean ====
section
/-! DEFINITION. What a platform fixes (the parameters of spec/00_scope.md R5) and the free values:
what spec/10_state.md R33 and spec/40_dispatch_and_cache_update.md R104 leave unspecified. -/

namespace Sys2Proof

/-- The content of one array entry: a value, or R33's poison, "the content of a cell whose value
no rule fixes" (R5's glossary).  Poison is the spec's own content of an entry, not a missing one. -/
inductive Entry (w : Nat) where
  /-- The entry holds no value (R33). -/
  | poison
  /-- The entry holds `v`; any value is legal (R34). -/
  | val (v : BitVec w)
  deriving DecidableEq, Repr

/-- R5's parameter `UNAVAILABLE_READ`. -/
inductive UnavailableRead where
  /-- The kernel computes from the cells' present contents (the default). -/
  | cache
  /-- A command whose mode needs a neighbour its flags mark unavailable writes unspecified int8 values. -/
  | draw
  deriving DecidableEq, Repr

/-- The implementation parameters of R5. -/
structure Params where
  /-- `TL_LEN`, the number of entries of `TOPLINE`: 4 to 65536. -/
  tlLen : Nat
  /-- `BASE`, the platform address of the host register window, a multiple of 2^19. -/
  base : Nat
  /-- `RESET_FILL`: poison, or a fixed int8 value. -/
  resetFill : Entry 8
  /-- `UNAVAILABLE_READ`. -/
  unavailableRead : UnavailableRead
  deriving DecidableEq, Repr

/-- R5: the legal values of the parameters. -/
abbrev Params.WellFormed (p : Params) : Prop :=
  4 ≤ p.tlLen ∧ p.tlLen ≤ 65536 ∧ p.base % 2 ^ 19 = 0

/-- R104 (`UNAVAILABLE_READ = draw`): the unspecified int8 value a command writes for output
`4*y + x`.  FREE VALUE: a constant without a body, applied to the draw counter of State.
Log entry 4. -/
opaque Config.drawnSample (draws position : Nat) : Sample

/-- R33: the unspecified word a host read of a poisoned entry returns, by the draw counter of
State and the slot's offset.  FREE VALUE: a constant without a body.  Log entry 3. -/
opaque Config.poisonWord (draws offset : Nat) : Word

end Sys2Proof
end

