-- ==== Sys2Proof/Machine/Params.lean ====
section
/-! DEFINITION. The parameter values of the machine the package names `State.reset`
(spec/00_scope.md R5).  Every statement is about every value of the parameters; these are only
the ones the reset state carries. -/

namespace Sys2Proof.Machine

/-- The parameters of `State.reset`: R5's defaults `RESET_FILL = poison` and
`UNAVAILABLE_READ = cache`; `TL_LEN = 64` as in spec/95_test_vectors.md and `BASE = 0`, which R5
leaves to the platform.  DESIGN CHOICE for `TL_LEN` and `BASE`, log entry 1. -/
def defaultParams : Params where
  tlLen := 64
  base := 0
  resetFill := .poison
  unavailableRead := .cache

/-- What an entry of an int8 array that nothing has written reads as (R32). -/
def sampleFill (p : Params) : Entry 8 := p.resetFill

/-- What an entry of `RESID` that nothing has written reads as: `RESET_FILL`, a fixed int8
sign-extended to 32 bits (R32). -/
def residFill (p : Params) : Entry 32 :=
  match p.resetFill with
  | .poison => .poison
  | .val f => .val (f.signExtend 32)

end Sys2Proof.Machine
end

