-- ==== Sys2Proof/Machine/State.lean ====
section
/-! DEFINITION. The engine's state (spec/10_state.md R20), the host's pending transactions
(spec/00_scope.md R2), and the reasons a step can stop. -/

namespace Sys2Proof.Machine

/-- The contents of one of the engine's arrays: (index, entry) pairs, indices strictly rising, no
entry equal to the array's reset content, which an unlisted index reads as (R32).  `Memory.WellFormed`
states that form. -/
abbrev Memory (w : Nat) := List (Nat × Entry w)

/-- The fields of `STATUS` (R27).  The reserved bits read as 0 and are not held. -/
structure Status where
  /-- `LAST_ERR`, bits 3:0. -/
  lastErr : BitVec 4
  /-- `ERR_STICKY`, bit 8. -/
  errSticky : Bool
  /-- `BUSERR_STICKY`, bit 9. -/
  busErrSticky : Bool
  deriving DecidableEq, Repr

/-- One event at the engine's host interface: a host transaction (R11, R50) or an assertion of
the reset input between transactions (R200). -/
inductive HostEvent where
  /-- `MemRead(addr, size)`, `size` in bytes. -/
  | read (addr size : Nat)
  /-- `MemWrite(addr, size, v)`, `size` in bytes. -/
  | write (addr size : Nat) (v : Word)
  /-- The platform asserts the reset input. -/
  | reset
  deriving DecidableEq, Repr

/-- The engine's answer to a host transaction. -/
structure Response where
  /-- An error response, `BusError` (R179). -/
  error : Bool
  /-- The data word, for a read. -/
  data : Option Word
  deriving DecidableEq, Repr

/-- The machine.  `params` is fixed; the arrays and registers are R20's; `pending`, `resp` and
`draws` are the model's own. -/
structure State where
  /-- R5's parameters; `CONFIG` (R28) is computed from them. -/
  params : Params
  /-- `RESID[0..15]`, 32-bit signed (R21). -/
  resid : Memory 32
  /-- `PIXOUT[0..255]`, int8 (R22). -/
  pixOut : Memory 8
  /-- `LEFTROW[0..15]`, int8 (R23). -/
  leftRow : Memory 8
  /-- `TOPLEFT[0..3]`, int8 (R24). -/
  topLeft : Memory 8
  /-- `TOPLINE[0..TL_LEN-1]`, int8 (R25). -/
  topLine : Memory 8
  /-- `CMD` (R26). -/
  cmd : Word
  /-- `STATUS` (R27). -/
  status : Status
  /-- MODEL'S OWN: how many draws of free values there have been (log entry 5). -/
  draws : Nat
  /-- MODEL'S OWN: the host's transactions and resets still to come, first one first (log entry 2). -/
  pending : List HostEvent
  /-- MODEL'S OWN: the engine's answer to the last transaction (log entry 2). -/
  resp : Option Response
  deriving DecidableEq, Repr

/-- Why a step can stop with a fault. -/
inductive Fault where
  /-- Raised by `hostRead` and `hostWrite`: the transaction's address is not in the window, the only
  space the host reaches (R50), so the spec gives it no meaning.  Safe: the model stops where a platform
  may have another device answer.  Log entry 7. -/
  | outsideWindow (addr : Nat)
  deriving DecidableEq, Repr

/-- Why a step can be refused. -/
inductive Refusal where
  /-- Raised by an arm of `exec` without a meaning; no arm is such an arm.  Safe. -/
  | notModelled (mnemonic : String)
  deriving DecidableEq, Repr

/-- The state after reset with parameters `p` (R32): `CMD = 0`, `STATUS = 0` and every array entry
`RESET_FILL`.  Nothing is pending and nothing has been answered. -/
def State.resetWith (p : Params) : State where
  params := p
  resid := []
  pixOut := []
  leftRow := []
  topLeft := []
  topLine := []
  cmd := 0
  status := { lastErr := 0, errSticky := false, busErrSticky := false }
  draws := 0
  pending := []
  resp := none

/-- The machine right after reset, with the parameters of `defaultParams`. -/
def State.reset : State := State.resetWith defaultParams

end Sys2Proof.Machine
end

