-- ==== Sys2Proof/Machine/Flags.lean ====
section
/-! DEFINITION. `STATUS` and `CONFIG`: every way a field of `STATUS` changes, and what the two
registers read as (spec/10_state.md R27, R28; spec/20_memory.md R60, R61; spec/60_exceptions.md
R171, R177 to R179).  The engine has no condition codes (R29). -/

namespace Sys2Proof.Machine

/-- The rejection code of `ERR_RANGE` (R171). -/
def errRange : BitVec 4 := 4

/-- The rejection code of an illegal word (R171). -/
def errorCode (e : DecodeError) : BitVec 4 :=
  match e with
  | .reservedClass => 1
  | .reservedBit => 2
  | .modeOutOfRange => 3

/-- R177: a rejected command records its code and sets `ERR_STICKY`. -/
def statusReject (code : BitVec 4) (st : Status) : Status :=
  { st with lastErr := code, errSticky := true }

/-- R178: an accepted command sets `LAST_ERR` to 0 and leaves the sticky bits. -/
def statusAccept (st : Status) : Status := { st with lastErr := 0 }

/-- R179: a bus error sets `BUSERR_STICKY`. -/
def statusBusError (st : Status) : Status := { st with busErrSticky := true }

/-- R60: a host write of `v` clears `ERR_STICKY` if bit 8 is 1 and `BUSERR_STICKY` if bit 9 is 1;
every other bit of `v` is ignored. -/
def statusWrite (v : Word) (st : Status) : Status :=
  { st with
    errSticky := st.errSticky && !v.getLsbD 8
    busErrSticky := st.busErrSticky && !v.getLsbD 9 }

/-- R60: what `STATUS` reads as, `{22'b0, BUSERR_STICKY, ERR_STICKY, 4'b0, LAST_ERR}`. -/
def statusWord (st : Status) : Word :=
  0#22 ++ BitVec.ofBool st.busErrSticky ++ BitVec.ofBool st.errSticky ++ 0#4 ++ st.lastErr

/-- R61: what `CONFIG` reads as, `{VERSION = 0x01, 7'b0, TL_LEN[16:0]}`. -/
def configWord (p : Params) : Word := 0x01#8 ++ 0#7 ++ BitVec.ofNat 17 p.tlLen

end Sys2Proof.Machine
end

