-- ==== Sys2Proof/Machine/Ops.lean ====
section
/-! DEFINITION. The shared operations: the arithmetic of spec/00_scope.md R7 to R10, the arrays'
reads and writes (spec/20_memory.md R69), and the two error events of spec/60_exceptions.md R170,
command rejection and bus error, each written once. -/

namespace Sys2Proof.Machine

/-! ### Arithmetic: exact integers, no wrap-around (R7) -/

/-- R8: `a >> n` is `floor(a / 2^n)`. -/
def shr (a : Int) (n : Nat) : Int := a / 2 ^ n

/-- R9: `clip8(v) = min(127, max(-128, v))`. -/
def clip8 (v : Int) : Int := min 127 (max (-128) v)

/-- R10: the rounded 2-tap average. -/
def avg2 (a b : Int) : Int := shr (a + b + 1) 1

/-- R10: the rounded 3-tap average, weights 1, 2, 1. -/
def avg3 (a b c : Int) : Int := shr (a + 2 * b + c + 2) 2

/-! ### Array entries -/

/-- The integer an entry holds, two's complement (R6, R21).  Poison holds none; the 0 here reaches no
result, because a command that reads poison writes poison (`outEntry`). -/
def entryInt {w : Nat} (e : Entry w) : Int :=
  match e with
  | .poison => 0
  | .val v => v.toInt

/-- R7 (a): the store of an already clipped value into an int8 entry. -/
def sampleEntry (v : Int) : Entry 8 := .val (BitVec.ofInt 8 v)

/-- The entry of `m` at index `i`; `d` is the array's reset content. -/
def memGet {w : Nat} (d : Entry w) (m : Memory w) (i : Nat) : Entry w :=
  match m with
  | [] => d
  | (j, e) :: rest => if i = j then e else memGet d rest i

/-- `m` without index `i`, which then reads as the reset content. -/
def memErase {w : Nat} (m : Memory w) (i : Nat) : Memory w :=
  match m with
  | [] => []
  | (j, e) :: rest => if j = i then memErase rest i else (j, e) :: memErase rest i

/-- `m`, which does not list `i`, with `v` listed at `i`, the indices still rising. -/
def memInsert {w : Nat} (m : Memory w) (i : Nat) (v : Entry w) : Memory w :=
  match m with
  | [] => [(i, v)]
  | (j, e) :: rest => if i < j then (i, v) :: (j, e) :: rest else (j, e) :: memInsert rest i v

/-- `m` with `v` at index `i`, in the canonical form: storing the reset content unlists the index. -/
def memSet {w : Nat} (d : Entry w) (m : Memory w) (i : Nat) (v : Entry w) : Memory w :=
  if v = d then memErase m i else memInsert (memErase m i) i v

/-- A list of writes, the first one first. -/
def memSetAll {w : Nat} (d : Entry w) (m : Memory w) (l : List (Nat × Entry w)) : Memory w :=
  match l with
  | [] => m
  | (i, v) :: rest => memSetAll d (memSet d m i v) rest

/-- The canonical form: every index is at least `lo`, the indices rise strictly, and no entry
equals the reset content `d`. -/
def memOk {w : Nat} (d : Entry w) (lo : Nat) (m : Memory w) : Bool :=
  match m with
  | [] => true
  | (j, e) :: rest => decide (lo ≤ j) && decide (e ≠ d) && memOk d (j + 1) rest

/-- The canonical form of an array's contents. -/
abbrev Memory.WellFormed {w : Nat} (d : Entry w) (m : Memory w) : Prop := memOk d 0 m = true

/-- Every listed index is below `n`, the array's number of entries. -/
abbrev Memory.Below {w : Nat} (n : Nat) (m : Memory w) : Prop := ∀ c ∈ m, c.1 < n

/-! ### The arrays of the machine (R20) -/

/-- `RESID[i]` (R21). -/
def State.residAt (s : State) (i : Nat) : Entry 32 := memGet (residFill s.params) s.resid i

/-- `PIXOUT[i]` (R22). -/
def State.pixOutAt (s : State) (i : Nat) : Entry 8 := memGet (sampleFill s.params) s.pixOut i

/-- `LEFTROW[i]` (R23). -/
def State.leftRowAt (s : State) (i : Nat) : Entry 8 := memGet (sampleFill s.params) s.leftRow i

/-- `TOPLEFT[i]` (R24). -/
def State.topLeftAt (s : State) (i : Nat) : Entry 8 := memGet (sampleFill s.params) s.topLeft i

/-- `TOPLINE[i]` (R25). -/
def State.topLineAt (s : State) (i : Nat) : Entry 8 := memGet (sampleFill s.params) s.topLine i

/-- `RESID[i] <- v` for each pair of the list. -/
def State.setResid (s : State) (l : List (Nat × Entry 32)) : State :=
  { s with resid := memSetAll (residFill s.params) s.resid l }

/-- `PIXOUT[i] <- v` for each pair of the list. -/
def State.setPixOut (s : State) (l : List (Nat × Entry 8)) : State :=
  { s with pixOut := memSetAll (sampleFill s.params) s.pixOut l }

/-- `LEFTROW[i] <- v` for each pair of the list. -/
def State.setLeftRow (s : State) (l : List (Nat × Entry 8)) : State :=
  { s with leftRow := memSetAll (sampleFill s.params) s.leftRow l }

/-- `TOPLEFT[i] <- v` for each pair of the list. -/
def State.setTopLeft (s : State) (l : List (Nat × Entry 8)) : State :=
  { s with topLeft := memSetAll (sampleFill s.params) s.topLeft l }

/-- `TOPLINE[i] <- v` for each pair of the list. -/
def State.setTopLine (s : State) (l : List (Nat × Entry 8)) : State :=
  { s with topLine := memSetAll (sampleFill s.params) s.topLine l }

/-! ### Registers, answers and the two error events -/

/-- `CMD <- w` (R26, R59). -/
def State.setCmd (s : State) (w : Word) : State := { s with cmd := w }

/-- `STATUS <- st`. -/
def State.setStatus (s : State) (st : Status) : State := { s with status := st }

/-- Advance the draw counter: what is unspecified from here on is unspecified anew. -/
def State.nextDraw (s : State) : State := { s with draws := s.draws + 1 }

/-- The engine answers the transaction with `r`. -/
def State.answer (s : State) (r : Response) : State := { s with resp := some r }

/-- The host's events still to come. -/
def State.setPending (s : State) (l : List HostEvent) : State := { s with pending := l }

/-- R177, `raise Reject(code)`: the command ends with `code` in `LAST_ERR` and `ERR_STICKY` set; no
array entry changes, and the write that issued it completes normally. -/
def State.reject (s : State) (code : BitVec 4) : State := s.setStatus (statusReject code s.status)

/-- R179, `raise BusError(addr)`: an error response, with data word 0 for a read;
`BUSERR_STICKY` is set and nothing else changes. -/
def State.busError (s : State) (isRead : Bool) : State :=
  (s.setStatus (statusBusError s.status)).answer
    { error := true, data := if isRead then some 0 else none }

/-- R200, the reset event: every piece of state takes R32's value.  The parameters and the host's
further events stay, and what is unspecified after it is unspecified anew. -/
def State.resetEvent (s : State) : State :=
  ({ State.resetWith s.params with pending := s.pending, draws := s.draws }).nextDraw

end Sys2Proof.Machine
end

