-- ==== Sys2Proof/Machine/Operands.lean ====
section
/-! DEFINITION. The derived operands of spec/30_encoding.md R87 and the neighbour samples of
spec/40_dispatch_and_cache_update.md R102. -/

namespace Sys2Proof.Machine

/-- `to = mbOffX + blkX`, the `TOPLINE` index of the block's first column (R12, R87). -/
def topIndex (o : Operands) : Nat := o.mbOffX + o.blkX

/-- `band = blkY >> 2`, the `TOPLEFT` index (R87). -/
def band (o : Operands) : Nat := o.blkY / 4

/-- `PIXOUT` index of column `x`, row `y` of the block, `pix0 + 16*y + x` with
`pix0 = 16*blkY + blkX` (R87, R107). -/
def pixIndex (o : Operands) (x y : Nat) : Nat := 16 * o.blkY + o.blkX + 16 * y + x

/-- One neighbour cell a mode can read (R103). -/
inductive Neighbour where
  /-- `TOPLINE[to + i]`. -/
  | top (i : Nat)
  /-- `LEFTROW[blkY + j]`. -/
  | left (j : Nat)
  /-- `TOPLEFT[band]`. -/
  | corner
  deriving DecidableEq, Repr

/-- The entry a neighbour cell holds (R102). -/
def neighbourEntry (o : Operands) (s : State) (c : Neighbour) : Entry 8 :=
  match c with
  | .top i => s.topLineAt (topIndex o + i)
  | .left j => s.leftRowAt (o.blkY + j)
  | .corner => s.topLeftAt (band o)

/-- The samples a kernel reads, by R102's names. -/
structure Neighbours where
  /-- The row above, p[0,-1]. -/
  t0 : Int
  /-- p[1,-1]. -/
  t1 : Int
  /-- p[2,-1]. -/
  t2 : Int
  /-- p[3,-1]. -/
  t3 : Int
  /-- The top-right row, p[4,-1]. -/
  t4 : Int
  /-- p[5,-1]. -/
  t5 : Int
  /-- p[6,-1]. -/
  t6 : Int
  /-- p[7,-1]. -/
  t7 : Int
  /-- The column to the left, p[-1,0]. -/
  l0 : Int
  /-- p[-1,1]. -/
  l1 : Int
  /-- p[-1,2]. -/
  l2 : Int
  /-- p[-1,3]. -/
  l3 : Int
  /-- The corner, p[-1,-1]. -/
  q : Int
  deriving DecidableEq, Repr

/-- R102: sample `i` of the row above and the top-right row; with `TRA = 0` the top-right samples
are the replicated last top sample, and no entry past `to + 3` is read. -/
def topSample (o : Operands) (s : State) (i : Nat) : Int :=
  entryInt (neighbourEntry o s (.top (if i < 4 then i else if o.tra then i else 3)))

/-- R102: sample `j` of the column to the left. -/
def leftSample (o : Operands) (s : State) (j : Nat) : Int := entryInt (neighbourEntry o s (.left j))

/-- R102: the corner sample. -/
def cornerSample (o : Operands) (s : State) : Int := entryInt (neighbourEntry o s .corner)

/-- The neighbour views of a command (R102), all of the state before it. -/
def neighbours (o : Operands) (s : State) : Neighbours where
  t0 := topSample o s 0
  t1 := topSample o s 1
  t2 := topSample o s 2
  t3 := topSample o s 3
  t4 := topSample o s 4
  t5 := topSample o s 5
  t6 := topSample o s 6
  t7 := topSample o s 7
  l0 := leftSample o s 0
  l1 := leftSample o s 1
  l2 := leftSample o s 2
  l3 := leftSample o s 3
  q := cornerSample o s

/-- A predictor: `P[y][x]` as four rows of four, as spec/41_spatial_modes.md prints it. -/
abbrev Table := List (List Int)

/-- `P[y][x]`. -/
def tableAt (p : Table) (x y : Nat) : Int := (p.getD y []).getD x 0

/-- The row above, the neighbours T0 to T3. -/
def topRow : List Neighbour := [.top 0, .top 1, .top 2, .top 3]

/-- The column to the left, the neighbours L0 to L3. -/
def leftColumn : List Neighbour := [.left 0, .left 1, .left 2, .left 3]

/-- What one mode's rule gives (R103, R105, R130 to R138, R176). -/
structure Kernel where
  /-- The mode's predictor. -/
  table : Operands → Neighbours → Table
  /-- The neighbour cells the predictor reads: the mode's row of R103. -/
  reads : Operands → List Neighbour
  /-- The mode requires LA = 1 of the caller (R105). -/
  needsLeft : Bool
  /-- The mode requires TA = 1 of the caller (R105). -/
  needsTop : Bool
  /-- The highest `k` such that the command touches `TOPLINE[to + k]` (R172, R176). -/
  topReach : Operands → Nat

end Sys2Proof.Machine
end

