-- ==== Sys2Proof/Machine/Pipeline.lean ====
section
/-! DEFINITION. The command pipeline every mode shares (spec/40_dispatch_and_cache_update.md R100):
range check, reconstruction, write, neighbour cache update. -/

namespace Sys2Proof.Machine

/-- R105: the flags mark unavailable a neighbour the mode requires.  The engine never reports this
(R104). -/
def missingNeighbour (k : Kernel) (o : Operands) : Bool :=
  (k.needsLeft && !o.la) || (k.needsTop && !o.ta)

/-- R104: the command's outputs are unspecified int8 values, because `UNAVAILABLE_READ = draw` and
a required neighbour is flagged unavailable. -/
def drawsOutputs (k : Kernel) (o : Operands) (s : State) : Bool :=
  decide (s.params.unavailableRead = .draw) && missingNeighbour k o

/-- R33: what the outputs are computed from includes a poisoned entry: one of the mode's neighbour
cells, or a residual (R103).  Log entry 6. -/
def readsPoison (k : Kernel) (o : Operands) (s : State) : Bool :=
  (k.reads o).any (fun c => decide (neighbourEntry o s c = .poison))
    || (List.range 16).any (fun i => decide (s.residAt i = .poison))

/-- R106: `out[y][x] = clip8(RESID[4*y + x] + P[y][x])`, exact over the integers. -/
def reconstruct (k : Kernel) (o : Operands) (s : State) (x y : Nat) : Int :=
  clip8 (entryInt (s.residAt (4 * y + x)) + tableAt (k.table o (neighbours o s)) x y)

/-- The entry a command writes for column `x`, row `y`: poison if it read poison (R33), an
unspecified int8 if R104's draw applies, else R106's value. -/
def outEntry (k : Kernel) (o : Operands) (s : State) (x y : Nat) : Entry 8 :=
  if readsPoison k o s then .poison
  else if drawsOutputs k o s then .val (Config.drawnSample s.draws (4 * y + x))
  else sampleEntry (reconstruct k o s x y)

/-- R107: the 16 writes to the output plane. -/
def pixWrites (k : Kernel) (o : Operands) (s : State) : List (Nat × Entry 8) :=
  [(pixIndex o 0 0, outEntry k o s 0 0), (pixIndex o 1 0, outEntry k o s 1 0),
   (pixIndex o 2 0, outEntry k o s 2 0), (pixIndex o 3 0, outEntry k o s 3 0),
   (pixIndex o 0 1, outEntry k o s 0 1), (pixIndex o 1 1, outEntry k o s 1 1),
   (pixIndex o 2 1, outEntry k o s 2 1), (pixIndex o 3 1, outEntry k o s 3 1),
   (pixIndex o 0 2, outEntry k o s 0 2), (pixIndex o 1 2, outEntry k o s 1 2),
   (pixIndex o 2 2, outEntry k o s 2 2), (pixIndex o 3 2, outEntry k o s 3 2),
   (pixIndex o 0 3, outEntry k o s 0 3), (pixIndex o 1 3, outEntry k o s 1 3),
   (pixIndex o 2 3, outEntry k o s 2 3), (pixIndex o 3 3, outEntry k o s 3 3)]

/-- The entry a command writes to the corner cache: `pre(TOPLINE)[to + 3]` (R108), poison if the command
read poison, as every entry it writes (R33, spec/93_implementation_defined.md U8). -/
def cornerEntry (k : Kernel) (o : Operands) (s : State) : Entry 8 :=
  if readsPoison k o s then .poison else s.topLineAt (topIndex o + 3)

/-- R108: the corner update, `TOPLEFT[band] <- pre(TOPLINE)[to + 3]`. -/
def cornerWrites (k : Kernel) (o : Operands) (s : State) : List (Nat × Entry 8) :=
  [(band o, cornerEntry k o s)]

/-- R109: the left update, the block's rightmost column. -/
def leftWrites (k : Kernel) (o : Operands) (s : State) : List (Nat × Entry 8) :=
  [(o.blkY, outEntry k o s 3 0), (o.blkY + 1, outEntry k o s 3 1),
   (o.blkY + 2, outEntry k o s 3 2), (o.blkY + 3, outEntry k o s 3 3)]

/-- R110: the top update, the block's bottom row. -/
def topWrites (k : Kernel) (o : Operands) (s : State) : List (Nat × Entry 8) :=
  [(topIndex o, outEntry k o s 0 3), (topIndex o + 1, outEntry k o s 1 3),
   (topIndex o + 2, outEntry k o s 2 3), (topIndex o + 3, outEntry k o s 3 3)]

/-- What an accepted command leaves (R100, R111).  Every value written is of the state before it
(R112). -/
def acceptCommand (k : Kernel) (o : Operands) (s : State) : State :=
  (((((s.setPixOut (pixWrites k o s)).setTopLeft (cornerWrites k o s)).setLeftRow
    (leftWrites k o s)).setTopLine (topWrites k o s)).setStatus (statusAccept s.status)).nextDraw

/-- R176: every `TOPLINE` index the command would touch is below `TL_LEN`. -/
def inRange (k : Kernel) (o : Operands) (s : State) : Bool :=
  decide (topIndex o + k.topReach o < s.params.tlLen)

/-- The pipeline of R100 for the mode `k`, after the encoding tests: the range test of R172, then
the command or its rejection with `ERR_RANGE`. -/
def predict (k : Kernel) (o : Operands) (s : State) : Host.Outcome State Fault Refusal :=
  if inRange k o s then .next (acceptCommand k o s) else .next (s.reject errRange)

end Sys2Proof.Machine
end

