-- ==== Sys2Proof/Machine/DownLeft.lean ====
section
/-! DEFINITION. The modes that read the top-right row: Diagonal-Down-Left and Vertical-Left
(spec/41_spatial_modes.md R133, R137). -/

namespace Sys2Proof.Machine

/-- R133: seven sums `c0..c6` along the anti-diagonals, `P[y][x] = c_(x+y)`. -/
def tableDdl (n : Neighbours) : Table :=
  let c0 := avg3 n.t0 n.t1 n.t2
  let c1 := avg3 n.t1 n.t2 n.t3
  let c2 := avg3 n.t2 n.t3 n.t4
  let c3 := avg3 n.t3 n.t4 n.t5
  let c4 := avg3 n.t4 n.t5 n.t6
  let c5 := avg3 n.t5 n.t6 n.t7
  let c6 := shr (n.t6 + 3 * n.t7 + 2) 2
  [[c0, c1, c2, c3],
   [c1, c2, c3, c4],
   [c2, c3, c4, c5],
   [c3, c4, c5, c6]]

/-- The Diagonal-Down-Left mode: it reads the top-right row only if TRA = 1. -/
def kernelDdl : Kernel where
  table _ n := tableDdl n
  reads o := topRow ++ (if o.tra then [.top 4, .top 5, .top 6, .top 7] else [])
  needsLeft := false
  needsTop := true
  topReach o := if o.tra then 7 else 3

/-- `pred.ddl` (R133). -/
def execPredDdl (o : Operands) (s : State) : Host.Outcome State Fault Refusal := predict kernelDdl o s

/-- R137: 2-tap averages in rows 0 and 2, 3-tap averages in rows 1 and 3. -/
def tableVl (n : Neighbours) : Table :=
  [[avg2 n.t0 n.t1, avg2 n.t1 n.t2, avg2 n.t2 n.t3, avg2 n.t3 n.t4],
   [avg3 n.t0 n.t1 n.t2, avg3 n.t1 n.t2 n.t3, avg3 n.t2 n.t3 n.t4, avg3 n.t3 n.t4 n.t5],
   [avg2 n.t1 n.t2, avg2 n.t2 n.t3, avg2 n.t3 n.t4, avg2 n.t4 n.t5],
   [avg3 n.t1 n.t2 n.t3, avg3 n.t2 n.t3 n.t4, avg3 n.t3 n.t4 n.t5, avg3 n.t4 n.t5 n.t6]]

/-- The Vertical-Left mode: it reads the top-right row up to T6, and only if TRA = 1. -/
def kernelVl : Kernel where
  table _ n := tableVl n
  reads o := topRow ++ (if o.tra then [.top 4, .top 5, .top 6] else [])
  needsLeft := false
  needsTop := true
  topReach o := if o.tra then 6 else 3

/-- `pred.vl` (R137). -/
def execPredVl (o : Operands) (s : State) : Host.Outcome State Fault Refusal := predict kernelVl o s

end Sys2Proof.Machine
end

