-- ==== Sys2Proof/Machine/DownRight.lean ====
section
/-! DEFINITION. The modes that read the corner: Diagonal-Down-Right, Vertical-Right and
Horizontal-Down (spec/41_spatial_modes.md R134 to R136). -/

namespace Sys2Proof.Machine

/-- R134: 3-tap averages along the main diagonals. -/
def tableDdr (n : Neighbours) : Table :=
  [[avg3 n.t0 n.q n.l0, avg3 n.q n.t0 n.t1, avg3 n.t0 n.t1 n.t2, avg3 n.t1 n.t2 n.t3],
   [avg3 n.q n.l0 n.l1, avg3 n.t0 n.q n.l0, avg3 n.q n.t0 n.t1, avg3 n.t0 n.t1 n.t2],
   [avg3 n.l0 n.l1 n.l2, avg3 n.q n.l0 n.l1, avg3 n.t0 n.q n.l0, avg3 n.q n.t0 n.t1],
   [avg3 n.l1 n.l2 n.l3, avg3 n.l0 n.l1 n.l2, avg3 n.q n.l0 n.l1, avg3 n.t0 n.q n.l0]]

/-- The Diagonal-Down-Right mode. -/
def kernelDdr : Kernel where
  table _ n := tableDdr n
  reads _ := topRow ++ [.corner] ++ leftColumn
  needsLeft := true
  needsTop := true
  topReach _ := 3

/-- `pred.ddr` (R134). -/
def execPredDdr (o : Operands) (s : State) : Host.Outcome State Fault Refusal := predict kernelDdr o s

/-- R135: 2-tap and 3-tap averages along near-vertical diagonals. -/
def tableVr (n : Neighbours) : Table :=
  [[avg2 n.q n.t0, avg2 n.t0 n.t1, avg2 n.t1 n.t2, avg2 n.t2 n.t3],
   [avg3 n.l0 n.q n.t0, avg3 n.q n.t0 n.t1, avg3 n.t0 n.t1 n.t2, avg3 n.t1 n.t2 n.t3],
   [avg3 n.l1 n.l0 n.q, avg2 n.q n.t0, avg2 n.t0 n.t1, avg2 n.t1 n.t2],
   [avg3 n.l2 n.l1 n.l0, avg3 n.l0 n.q n.t0, avg3 n.q n.t0 n.t1, avg3 n.t0 n.t1 n.t2]]

/-- The Vertical-Right mode; L3 is never read. -/
def kernelVr : Kernel where
  table _ n := tableVr n
  reads _ := topRow ++ [.corner, .left 0, .left 1, .left 2]
  needsLeft := true
  needsTop := true
  topReach _ := 3

/-- `pred.vr` (R135). -/
def execPredVr (o : Operands) (s : State) : Host.Outcome State Fault Refusal := predict kernelVr o s

/-- R136: the transpose of `tableVr` with top and left exchanged. -/
def tableHd (n : Neighbours) : Table :=
  [[avg2 n.q n.l0, avg3 n.l0 n.q n.t0, avg3 n.t1 n.t0 n.q, avg3 n.t2 n.t1 n.t0],
   [avg2 n.l0 n.l1, avg3 n.q n.l0 n.l1, avg2 n.q n.l0, avg3 n.l0 n.q n.t0],
   [avg2 n.l1 n.l2, avg3 n.l0 n.l1 n.l2, avg2 n.l0 n.l1, avg3 n.q n.l0 n.l1],
   [avg2 n.l2 n.l3, avg3 n.l1 n.l2 n.l3, avg2 n.l1 n.l2, avg3 n.l0 n.l1 n.l2]]

/-- The Horizontal-Down mode; T3 is never read by the predictor. -/
def kernelHd : Kernel where
  table _ n := tableHd n
  reads _ := [.top 0, .top 1, .top 2, .corner] ++ leftColumn
  needsLeft := true
  needsTop := true
  topReach _ := 3

/-- `pred.hd` (R136). -/
def execPredHd (o : Operands) (s : State) : Host.Outcome State Fault Refusal := predict kernelHd o s

end Sys2Proof.Machine
end

