-- ==== Sys2Proof/Machine/HorizontalUp.lean ====
section
/-! DEFINITION. Horizontal-Up (spec/41_spatial_modes.md R138). -/

namespace Sys2Proof.Machine

/-- R138: averages of the left column, L3 replicated past its end. -/
def tableHu (n : Neighbours) : Table :=
  let tail := shr (n.l2 + 3 * n.l3 + 2) 2
  [[avg2 n.l0 n.l1, avg3 n.l0 n.l1 n.l2, avg2 n.l1 n.l2, avg3 n.l1 n.l2 n.l3],
   [avg2 n.l1 n.l2, avg3 n.l1 n.l2 n.l3, avg2 n.l2 n.l3, tail],
   [avg2 n.l2 n.l3, tail, n.l3, n.l3],
   [n.l3, n.l3, n.l3, n.l3]]

/-- The Horizontal-Up mode. -/
def kernelHu : Kernel where
  table _ n := tableHu n
  reads _ := leftColumn
  needsLeft := true
  needsTop := false
  topReach _ := 3

/-- `pred.hu` (R138). -/
def execPredHu (o : Operands) (s : State) : Host.Outcome State Fault Refusal := predict kernelHu o s

end Sys2Proof.Machine
end

