-- ==== Sys2Proof/Machine/Straight.lean ====
section
/-! DEFINITION. The copy and average modes: Vertical, Horizontal and DC
(spec/41_spatial_modes.md R130 to R132). -/

namespace Sys2Proof.Machine

/-- R130: `P[y][x] = Tx`. -/
def tableV (n : Neighbours) : Table :=
  [[n.t0, n.t1, n.t2, n.t3],
   [n.t0, n.t1, n.t2, n.t3],
   [n.t0, n.t1, n.t2, n.t3],
   [n.t0, n.t1, n.t2, n.t3]]

/-- The Vertical mode. -/
def kernelV : Kernel where
  table _ n := tableV n
  reads _ := topRow
  needsLeft := false
  needsTop := true
  topReach _ := 3

/-- `pred.v` (R130). -/
def execPredV (o : Operands) (s : State) : Host.Outcome State Fault Refusal := predict kernelV o s

/-- R131: `P[y][x] = Ly`. -/
def tableH (n : Neighbours) : Table :=
  [[n.l0, n.l0, n.l0, n.l0],
   [n.l1, n.l1, n.l1, n.l1],
   [n.l2, n.l2, n.l2, n.l2],
   [n.l3, n.l3, n.l3, n.l3]]

/-- The Horizontal mode. -/
def kernelH : Kernel where
  table _ n := tableH n
  reads _ := leftColumn
  needsLeft := true
  needsTop := false
  topReach _ := 3

/-- `pred.h` (R131). -/
def execPredH (o : Operands) (s : State) : Host.Outcome State Fault Refusal := predict kernelH o s

/-- R132: `SL = L0 + L1 + L2 + L3`. -/
def leftSum (n : Neighbours) : Int := n.l0 + n.l1 + n.l2 + n.l3

/-- R132: `ST = T0 + T1 + T2 + T3`. -/
def topSum (n : Neighbours) : Int := n.t0 + n.t1 + n.t2 + n.t3

/-- R132: the DC value, by which of the neighbours the flags mark available. -/
def dcValue (la ta : Bool) (n : Neighbours) : Int :=
  match la, ta with
  | true, true => shr (leftSum n + topSum n + 4) 3
  | true, false => shr (leftSum n + 2) 2
  | false, true => shr (topSum n + 2) 2
  | false, false => 0

/-- R132: `P[y][x] = dc`. -/
def tableDc (la ta : Bool) (n : Neighbours) : Table :=
  let dc := dcValue la ta n
  [[dc, dc, dc, dc], [dc, dc, dc, dc], [dc, dc, dc, dc], [dc, dc, dc, dc]]

/-- The DC mode; it requires no neighbour (R105). -/
def kernelDc : Kernel where
  table o n := tableDc o.la o.ta n
  reads o := (if o.la then leftColumn else []) ++ (if o.ta then topRow else [])
  needsLeft := false
  needsTop := false
  topReach _ := 3

/-- `pred.dc` (R132). -/
def execPredDc (o : Operands) (s : State) : Host.Outcome State Fault Refusal := predict kernelDc o s

end Sys2Proof.Machine
end

