-- ==== Sys2Proof/Machine/Dispatch.lean ====
section
/-! DEFINITION. The mode dispatcher (spec/40_dispatch_and_cache_update.md R101): one arm per
constructor of `Instr`. -/

namespace Sys2Proof.Machine

def exec (i : Instr) (s : State) : Host.Outcome State Fault Refusal :=
  match i with
  | .predV o => Sys2Proof.Machine.execPredV o s
  | .predH o => Sys2Proof.Machine.execPredH o s
  | .predDc o => Sys2Proof.Machine.execPredDc o s
  | .predDdl o => Sys2Proof.Machine.execPredDdl o s
  | .predDdr o => Sys2Proof.Machine.execPredDdr o s
  | .predVr o => Sys2Proof.Machine.execPredVr o s
  | .predHd o => Sys2Proof.Machine.execPredHd o s
  | .predVl o => Sys2Proof.Machine.execPredVl o s
  | .predHu o => Sys2Proof.Machine.execPredHu o s

end Sys2Proof.Machine
end

