-- ==== Sys2Proof/Machine/Window.lean ====
section
/-! DEFINITION. The host register window (spec/20_memory.md R50 to R62): which slot an offset names,
what a slot reads as, what a write to it does, and a whole host event. -/

namespace Sys2Proof.Machine

/-- A slot of the window (R51). -/
inductive Slot where
  /-- `CMD`. -/
  | cmd
  /-- `STATUS`. -/
  | status
  /-- `CONFIG`. -/
  | config
  /-- `RESID[i]`. -/
  | resid (i : Nat)
  /-- `LEFTROW[i]`. -/
  | leftRow (i : Nat)
  /-- `TOPLEFT[i]`. -/
  | topLeft (i : Nat)
  /-- `PIXOUT[i]`. -/
  | pixOut (i : Nat)
  /-- `TOPLINE[i]`. -/
  | topLine (i : Nat)
  deriving DecidableEq, Repr

/-- The number of bytes of the window (R50). -/
def windowBytes : Nat := 2 ^ 19

/-- The offset of a slot (R51). -/
def slotOffset (k : Slot) : Nat :=
  match k with
  | .cmd => 0x00000
  | .status => 0x00004
  | .config => 0x00008
  | .resid i => 0x00100 + 4 * i
  | .leftRow i => 0x00200 + 4 * i
  | .topLeft i => 0x00300 + 4 * i
  | .pixOut i => 0x00400 + 4 * i
  | .topLine i => 0x40000 + 4 * i

/-- The slot exists: its index is below its array's number of entries (R51, R62). -/
abbrev Slot.Mapped (p : Params) (k : Slot) : Prop :=
  match k with
  | .cmd | .status | .config => True
  | .resid i => i < 16
  | .leftRow i => i < 16
  | .topLeft i => i < 4
  | .pixOut i => i < 256
  | .topLine i => i < p.tlLen

/-- The slot at an offset, if the offset is aligned and mapped (R51, R53). -/
def slotAt (p : Params) (off : Nat) : Option Slot :=
  if off % 4 ≠ 0 then none
  else if off = 0x00000 then some .cmd
  else if off = 0x00004 then some .status
  else if off = 0x00008 then some .config
  else if 0x00100 ≤ off ∧ off < 0x00100 + 4 * 16 then some (.resid ((off - 0x00100) / 4))
  else if 0x00200 ≤ off ∧ off < 0x00200 + 4 * 16 then some (.leftRow ((off - 0x00200) / 4))
  else if 0x00300 ≤ off ∧ off < 0x00300 + 4 * 4 then some (.topLeft ((off - 0x00300) / 4))
  else if 0x00400 ≤ off ∧ off < 0x00400 + 4 * 256 then some (.pixOut ((off - 0x00400) / 4))
  else if 0x40000 ≤ off ∧ off < 0x40000 + 4 * p.tlLen then some (.topLine ((off - 0x40000) / 4))
  else none

/-- The slot an access of `size` bytes at offset `off` reaches; none is a bus error (R52, R53). -/
def accessSlot (p : Params) (off size : Nat) : Option Slot :=
  if size = 4 then slotAt p off else none

/-- The address is in the window (R50). -/
def inWindow (p : Params) (addr : Nat) : Bool :=
  decide (p.base ≤ addr) && decide (addr < p.base + windowBytes)

/-- What the slot `k` reads as when its entry is `e`: the value sign-extended to 32 bits (R57, R58),
an unspecified word for poison (R33). -/
def entryWord {w : Nat} (draws : Nat) (k : Slot) (e : Entry w) : Word :=
  match e with
  | .poison => Config.poisonWord draws (slotOffset k)
  | .val v => v.signExtend 32

/-- R54, R57 to R61: the word a slot reads as. -/
def readSlot (s : State) (k : Slot) : Word :=
  match k with
  | .cmd => s.cmd
  | .status => statusWord s.status
  | .config => configWord s.params
  | .resid i => entryWord s.draws k (s.residAt i)
  | .leftRow i => entryWord s.draws k (s.leftRowAt i)
  | .topLeft i => entryWord s.draws k (s.topLeftAt i)
  | .pixOut i => entryWord s.draws k (s.pixOutAt i)
  | .topLine i => entryWord s.draws k (s.topLineAt i)

/-- R56: what a write of `v` stores in a sample slot, `s8(v)`; bits 31:8 are ignored. -/
def sampleOfWord (v : Word) : Entry 8 := .val (v.setWidth 8)

/-- R59, R100: `CMD <- w`, then the command `w` to completion.  An illegal word is rejected with its
code (R89, R177). -/
def runCommand (w : Word) (s : State) : Host.Outcome State Fault Refusal :=
  match decodeWord w with
  | .instr i => exec i (s.setCmd w)
  | .illegal e => .next ((s.setCmd w).reject (errorCode e))

/-- The answer to a write that completes. -/
def writeDone : Response := { error := false, data := none }

/-- R55 to R61: a write of `v` to a mapped slot; `CONFIG` is read-only, a bus error. -/
def writeSlot (s : State) (k : Slot) (v : Word) : Host.Outcome State Fault Refusal :=
  match k with
  | .cmd => runCommand v (s.answer writeDone)
  | .status => .next ((s.setStatus (statusWrite v s.status)).answer writeDone)
  | .config => .next (s.busError false)
  | .resid i => .next ((s.setResid [(i, .val v)]).answer writeDone)
  | .leftRow i => .next ((s.setLeftRow [(i, sampleOfWord v)]).answer writeDone)
  | .topLeft i => .next ((s.setTopLeft [(i, sampleOfWord v)]).answer writeDone)
  | .pixOut i => .next ((s.setPixOut [(i, sampleOfWord v)]).answer writeDone)
  | .topLine i => .next ((s.setTopLine [(i, sampleOfWord v)]).answer writeDone)

/-- `MemRead(addr, size)` (R50 to R54, R179). -/
def hostRead (addr size : Nat) (s : State) : Host.Outcome State Fault Refusal :=
  if inWindow s.params addr then
    match accessSlot s.params (addr - s.params.base) size with
    | some k => .next (s.answer { error := false, data := some (readSlot s k) })
    | none => .next (s.busError true)
  else .fault (.outsideWindow addr)

/-- `MemWrite(addr, size, v)` (R50 to R53, R55, R179). -/
def hostWrite (addr size : Nat) (v : Word) (s : State) : Host.Outcome State Fault Refusal :=
  if inWindow s.params addr then
    match accessSlot s.params (addr - s.params.base) size with
    | some k => writeSlot s k v
    | none => .next (s.busError false)
  else .fault (.outsideWindow addr)

/-- One event at the host interface. -/
def hostEvent (e : HostEvent) (s : State) : Host.Outcome State Fault Refusal :=
  match e with
  | .read addr size => hostRead addr size s
  | .write addr size v => hostWrite addr size v s
  | .reset => .next s.resetEvent

/-- R64, R65: the first pending event takes effect, whole.  With none pending the engine takes no
step of its own (R2): the state stays. -/
def runPending (s : State) : Host.Outcome State Fault Refusal :=
  match s.pending with
  | [] => .next s
  | e :: rest => hostEvent e (s.setPending rest)

/-- The host transaction that issues the command `w` (R59, R92). -/
def commandWrite (p : Params) (w : Word) : HostEvent := .write (p.base + slotOffset .cmd) 4 w

end Sys2Proof.Machine
end

