-- ==== Sys2Proof/Machine/Step.lean ====
section
/-! DEFINITION. The step: one host event (spec/00_scope.md R2, spec/20_memory.md R64). -/

namespace Sys2Proof.Machine

/-- One step of the machine: the host's next transaction or reset, completely and atomically. -/
def step (s : State) : Host.Outcome State Fault Refusal := runPending s

/-- `s` with the host about to write the command word to `CMD` as its next transaction: a program
is the host's sequence of transactions (R30, R68).  Log entry 2. -/
def State.withFetchWord (s : State) (nbits w : Nat) : State :=
  s.setPending (commandWrite s.params (tableWord nbits w) :: s.pending)

end Sys2Proof.Machine
end

