-- ==== Sys2Proof/Machine/HostProgram.lean ====
section
/-! DEFINITION. Host programs (spec/30_encoding.md R91, R92): the assembler's line for a command, and what
each line of a program expands to at the host interface. -/

namespace Sys2Proof.Machine

/-- An array of the window, for R92's `X[a..b]`. -/
inductive ArrayName where
  /-- `RESID`. -/
  | resid
  /-- `LEFTROW`. -/
  | leftRow
  /-- `TOPLEFT`. -/
  | topLeft
  /-- `PIXOUT`. -/
  | pixOut
  /-- `TOPLINE`. -/
  | topLine
  deriving DecidableEq, Repr

/-- The slot of an array's entry `i`. -/
def arraySlot (a : ArrayName) (i : Nat) : Slot :=
  match a with
  | .resid => .resid i
  | .leftRow => .leftRow i
  | .topLeft => .topLeft i
  | .pixOut => .pixOut i
  | .topLine => .topLine i

/-- A line of a host program (R92). -/
inductive HostLine where
  /-- `wr <slot>, <value>`. -/
  | wr (k : Slot) (v : Word)
  /-- `rd <slot>`. -/
  | rd (k : Slot)
  /-- `wr @<offset>, <value>`: a raw window offset. -/
  | wrAt (off : Nat) (v : Word)
  /-- `rd @<offset>`. -/
  | rdAt (off : Nat)
  /-- `wr X[a..b], v_a ... v_b`: one `wr` per value, from index `first` up. -/
  | wrRange (a : ArrayName) (first : Nat) (vs : List Word)
  /-- `pred.<m> ...`: a write of its encoding to `CMD`. -/
  | pred (i : Instr)
  /-- `pred.raw <word>`: a write of the word to `CMD`. -/
  | raw (w : Word)
  deriving DecidableEq, Repr

/-- The writes of R92's range abbreviation, in increasing order of the index. -/
def rangeWrites (p : Params) (a : ArrayName) (i : Nat) (vs : List Word) : List HostEvent :=
  match vs with
  | [] => []
  | v :: rest => .write (p.base + slotOffset (arraySlot a i)) 4 v :: rangeWrites p a (i + 1) rest

/-- The host transactions a line expands to (R92). -/
def expand (p : Params) (l : HostLine) : List HostEvent :=
  match l with
  | .wr k v => [.write (p.base + slotOffset k) 4 v]
  | .rd k => [.read (p.base + slotOffset k) 4]
  | .wrAt off v => [.write (p.base + off) 4 v]
  | .rdAt off => [.read (p.base + off) 4]
  | .wrRange a first vs => rangeWrites p a first vs
  | .pred i => [commandWrite p (encode i)]
  | .raw w => [commandWrite p w]

/-- The host transactions of a program. -/
def expandAll (p : Params) (ls : List HostLine) : List HostEvent := ls.flatMap (expand p)

/-- A mode's name `<m>` in the assembler (R91). -/
def modeName (mode : Nat) : String :=
  ["v", "h", "dc", "ddl", "ddr", "vr", "hd", "vl", "hu"].getD mode ""

/-- The three flag characters (R91). -/
def flagsText (o : Operands) : String :=
  (if o.la then "l" else "-") ++ (if o.ta then "t" else "-") ++ (if o.tra then "r" else "-")

/-- The assembler's line for a command, `pred.<m> <flags>, <blkX>, <blkY>, <mbOffX>` (R91), with
`mbOffX` in decimal. -/
def asmText (i : Instr) : String :=
  "pred." ++ modeName i.mode ++ " " ++ flagsText i.operands ++ ", " ++ toString i.operands.blkX ++ ", "
    ++ toString i.operands.blkY ++ ", " ++ toString i.operands.mbOffX

end Sys2Proof.Machine
end

