-- ==== Sys2Proof/Safety.lean ====
section
/-! DEFINITION. What a good state of the machine is, and what counts as a fault of the host program
(spec/60_exceptions.md R179). -/

namespace Sys2Proof.Machine

/-- The states the engine can be in: legal parameters (R5), every array in canonical form and no
longer than R20 says, and a `LAST_ERR` that is one of R171's codes 0 to 4 (R27). -/
structure State.Sound (s : State) : Prop where
  params : s.params.WellFormed
  resid : Memory.WellFormed (residFill s.params) s.resid
  pixOut : Memory.WellFormed (sampleFill s.params) s.pixOut
  leftRow : Memory.WellFormed (sampleFill s.params) s.leftRow
  topLeft : Memory.WellFormed (sampleFill s.params) s.topLeft
  topLine : Memory.WellFormed (sampleFill s.params) s.topLine
  residLength : Memory.Below 16 s.resid
  pixOutLength : Memory.Below 256 s.pixOut
  leftRowLength : Memory.Below 16 s.leftRow
  topLeftLength : Memory.Below 4 s.topLeft
  topLineLength : Memory.Below s.params.tlLen s.topLine
  lastErr : s.status.lastErr.toNat ≤ 4

/-- Every entry of every array holds a value (R33): no array is poisoned anywhere. -/
structure State.NoPoison (s : State) : Prop where
  resid : ∀ i, s.residAt i ≠ .poison
  pixOut : ∀ i, s.pixOutAt i ≠ .poison
  leftRow : ∀ i, s.leftRowAt i ≠ .poison
  topLeft : ∀ i, s.topLeftAt i ≠ .poison
  topLine : ∀ i, s.topLineAt i ≠ .poison

/-- R179: the last transaction ended in a bus error, which is a fault of the host program. -/
def State.HostFaulted (s : State) : Prop := ∃ d, s.resp = some { error := true, data := d }

/-- A run of `n` steps from `s` to `t` in which no host transaction is faulty. -/
def SafeRun (n : Nat) (s t : State) : Prop :=
  match n with
  | 0 => s = t
  | n + 1 => ∃ u, step s = .next u ∧ ¬ u.HostFaulted ∧ SafeRun n u t

end Sys2Proof.Machine
end

