-- ==== Sys2Proof/Certificates/Slice0/Obligations.lean ====
section
/-! DEFINITION. The statements for the provers, over the words they share.  Each docstring names the
rule of spec/ it formalises. -/

namespace Sys2Proof.Machine

/-! ### The words of the statements -/

/-- The entry holds the value `v` (R5: int8, R21: 32-bit two's complement). -/
abbrev Holds {w : Nat} (e : Entry w) (v : Int) : Prop := e ≠ .poison ∧ entryInt e = v

/-- `TOPLINE[to + i]` holds `T i` for each `i < n`. -/
abbrev TopIs (o : Operands) (s : State) (T : Nat → Int) (n : Nat) : Prop :=
  ∀ i < n, Holds (s.topLineAt (o.mbOffX + o.blkX + i)) (T i)

/-- R102's T4 up to T(n-1): with TRA = 1 the entries `TOPLINE[to + i]`, with TRA = 0 the replicated
last top sample. -/
abbrev TopRightIs (o : Operands) (s : State) (T : Nat → Int) (n : Nat) : Prop :=
  ∀ i < n, 4 ≤ i →
    if o.tra = true then Holds (s.topLineAt (o.mbOffX + o.blkX + i)) (T i) else T i = T 3

/-- `LEFTROW[blkY + j]` holds `L j` for each `j < n`. -/
abbrev LeftIs (o : Operands) (s : State) (L : Nat → Int) (n : Nat) : Prop :=
  ∀ j < n, Holds (s.leftRowAt (o.blkY + j)) (L j)

/-- `TOPLEFT[blkY >> 2]` holds `Q`. -/
abbrev CornerIs (o : Operands) (s : State) (Q : Int) : Prop := Holds (s.topLeftAt (o.blkY / 4)) Q

/-- `RESID[i]` holds `R i` for each of the 16 entries. -/
abbrev ResidIs (s : State) (R : Nat → Int) : Prop := ∀ i < 16, Holds (s.residAt i) (R i)

/-- R104: no draw, because `UNAVAILABLE_READ = cache` or the flags mark available what the mode
requires. -/
abbrev NoDraw (s : State) (available : Bool) : Prop :=
  s.params.unavailableRead = .cache ∨ available = true

/-- A row of neighbours extended by the corner: index -1 is `Q` (R102's `top(-1)`, `left(-1)`). -/
def withCorner (Q : Int) (A : Nat → Int) (i : Int) : Int := if i < 0 then Q else A i.toNat

/-- R108: the value of the corner update, `TOPLINE[to + 3]` before the command. -/
abbrev oldCorner (o : Operands) (s : State) : Entry 8 := s.topLineAt (o.mbOffX + o.blkX + 3)

/-- R100 and R107 to R111: `t` is what an accepted command of block `o` leaves of `s`, its output
`out x y` being of the kind `good x y` and its corner update `corner`.  Whatever is not named is
unchanged; the draw counter is the model's own and may change. -/
structure Accepted (o : Operands) (s t : State) (corner : Entry 8)
    (good : Nat → Nat → Entry 8 → Prop) : Prop where
  /-- R106, R107: the 16 entries of the output plane. -/
  output : ∀ x < 4, ∀ y < 4, good x y (t.pixOutAt (16 * (o.blkY + y) + o.blkX + x))
  /-- R109 (R113): the left cache holds the block's rightmost column. -/
  left : ∀ y < 4, t.leftRowAt (o.blkY + y) = t.pixOutAt (16 * (o.blkY + y) + o.blkX + 3)
  /-- R110 (R113): the top cache holds the block's bottom row. -/
  top : ∀ x < 4, t.topLineAt (o.mbOffX + o.blkX + x) = t.pixOutAt (16 * (o.blkY + 3) + o.blkX + x)
  /-- R108: the corner update. -/
  corner : t.topLeftAt (o.blkY / 4) = corner
  /-- R178: `LAST_ERR` is 0 and the sticky bits stay. -/
  status : t.status = { s.status with lastErr := 0 }
  /-- R107: the rest of the output plane. -/
  outputFrame : ∀ a, (∀ x < 4, ∀ y < 4, a ≠ 16 * (o.blkY + y) + o.blkX + x) →
    t.pixOutAt a = s.pixOutAt a
  /-- R111: the rest of the left cache. -/
  leftFrame : ∀ a, (∀ y < 4, a ≠ o.blkY + y) → t.leftRowAt a = s.leftRowAt a
  /-- R111: the rest of the corner cache. -/
  cornerFrame : ∀ a, a ≠ o.blkY / 4 → t.topLeftAt a = s.topLeftAt a
  /-- R110, R111: the rest of the top cache. -/
  topFrame : ∀ a, (∀ x < 4, a ≠ o.mbOffX + o.blkX + x) → t.topLineAt a = s.topLineAt a
  /-- R111: no residual. -/
  residFrame : t.resid = s.resid
  /-- The rest of the machine. -/
  restFrame : t.params = s.params ∧ t.cmd = s.cmd ∧ t.pending = s.pending ∧ t.resp = s.resp

/-- R177: `s` after a rejection with `code`. -/
def rejected (code : BitVec 4) (s : State) : State :=
  { s with status := { s.status with lastErr := code, errSticky := true } }

/-- R100, R106, R176 for a command of block `o` whose highest `TOPLINE` index is `hi` and whose
predictor is `P`: rejected with `ERR_RANGE` (4) if `hi` is not below `TL_LEN`; else it completes, and
output `(x, y)` is `clip8(R(4*y + x) + P(x, y))`. -/
def Predicts (i : Instr) (s : State) (hi : Nat) (R : Nat → Int) (P : Nat → Nat → Int) : Prop :=
  (hi < s.params.tlLen → ∃ t, exec i s = .next t ∧
    Accepted i.operands s t (oldCorner i.operands s)
      (fun x y e => Holds e (min 127 (max (-128) (R (4 * y + x) + P x y))))) ∧
  (¬ hi < s.params.tlLen → exec i s = .next (rejected 4 s))

/-- R103: the neighbour cells the predictor of a command reads. -/
def readSet (i : Instr) : List Neighbour :=
  match i with
  | .predV _ => [.top 0, .top 1, .top 2, .top 3]
  | .predH _ => [.left 0, .left 1, .left 2, .left 3]
  | .predDc o => (if o.la then [.left 0, .left 1, .left 2, .left 3] else [])
      ++ (if o.ta then [.top 0, .top 1, .top 2, .top 3] else [])
  | .predDdl o => [.top 0, .top 1, .top 2, .top 3]
      ++ (if o.tra then [.top 4, .top 5, .top 6, .top 7] else [])
  | .predDdr _ => [.top 0, .top 1, .top 2, .top 3, .corner, .left 0, .left 1, .left 2, .left 3]
  | .predVr _ => [.top 0, .top 1, .top 2, .top 3, .corner, .left 0, .left 1, .left 2]
  | .predHd _ => [.top 0, .top 1, .top 2, .corner, .left 0, .left 1, .left 2, .left 3]
  | .predVl o => [.top 0, .top 1, .top 2, .top 3] ++ (if o.tra then [.top 4, .top 5, .top 6] else [])
  | .predHu _ => [.left 0, .left 1, .left 2, .left 3]

/-- R33: a cell of the command's read set (the mode's row of R103) or a residual is poison. -/
abbrev ReadsPoison (i : Instr) (s : State) : Prop :=
  (∃ c ∈ readSet i, neighbourEntry i.operands s c = .poison) ∨ ∃ j < 16, s.residAt j = .poison

/-- R105: the flags mark available every neighbour the command's mode requires. -/
def requirementMet (i : Instr) : Bool :=
  match i with
  | .predV o => o.ta
  | .predH o => o.la
  | .predDc _ => true
  | .predDdl o => o.ta
  | .predDdr o => o.la && o.ta
  | .predVr o => o.la && o.ta
  | .predHd o => o.la && o.ta
  | .predVl o => o.ta
  | .predHu o => o.la

/-- R176: the `k` for which the command touches `TOPLINE[to + k]`. -/
def touched (i : Instr) : List Nat :=
  match i with
  | .predDdl o => [0, 1, 2, 3] ++ (if o.tra then [4, 5, 6, 7] else [])
  | .predVl o => [0, 1, 2, 3] ++ (if o.tra then [4, 5, 6] else [])
  | .predV _ | .predH _ | .predDc _ | .predDdr _ | .predVr _ | .predHd _ | .predHu _ => [0, 1, 2, 3]

/-- R176: every `TOPLINE` index the command touches is below `TL_LEN`. -/
abbrev InRange (i : Instr) (s : State) : Prop :=
  ∀ k ∈ touched i, i.operands.mbOffX + i.operands.blkX + k < s.params.tlLen

/-- The command of the same mode with the operands `o`. -/
def withOperands (i : Instr) (o : Operands) : Instr :=
  match i with
  | .predV _ => .predV o
  | .predH _ => .predH o
  | .predDc _ => .predDc o
  | .predDdl _ => .predDdl o
  | .predDdr _ => .predDdr o
  | .predVr _ => .predVr o
  | .predHd _ => .predHd o
  | .predVl _ => .predVl o
  | .predHu _ => .predHu o

/-- R172's `Check(w)`, word for word, on the value of the word. -/
def checkCode (tlLen w : Nat) : Nat :=
  let mode := w % 16
  let tra := w / 64 % 2
  let col := w / 65536 + 4 * (w / 256 % 4)
  let hi := if mode = 3 ∧ tra = 1 then col + 7 else if mode = 7 ∧ tra = 1 then col + 6 else col + 3
  if w / 4096 % 16 ≠ 0 then 1
  else if w / 128 % 2 = 1 then 2
  else if mode > 8 then 3
  else if hi ≥ tlLen then 4
  else 0

/-- The entry a mapped sample or residual slot shows, as an integer if it holds a value (R56 to R58). -/
def slotHolds (s : State) (k : Slot) (v : Int) : Prop :=
  match k with
  | .cmd | .status | .config => False
  | .resid i => Holds (s.residAt i) v
  | .leftRow i => Holds (s.leftRowAt i) v
  | .topLeft i => Holds (s.topLeftAt i) v
  | .pixOut i => Holds (s.pixOutAt i) v
  | .topLine i => Holds (s.topLineAt i) v

/-- The slot is one of the four int8 arrays' (R51). -/
def isSample (k : Slot) : Prop :=
  match k with
  | .cmd | .status | .config | .resid _ => False
  | .leftRow _ | .topLeft _ | .pixOut _ | .topLine _ => True

/-- What every array and register but the entry of slot `k` holds is the same in `s` and `t`. -/
structure SameBut (k : Slot) (s t : State) : Prop where
  resid : ∀ i, k ≠ .resid i → t.residAt i = s.residAt i
  leftRow : ∀ i, k ≠ .leftRow i → t.leftRowAt i = s.leftRowAt i
  topLeft : ∀ i, k ≠ .topLeft i → t.topLeftAt i = s.topLeftAt i
  pixOut : ∀ i, k ≠ .pixOut i → t.pixOutAt i = s.pixOutAt i
  topLine : ∀ i, k ≠ .topLine i → t.topLineAt i = s.topLineAt i
  registers : t.params = s.params ∧ t.cmd = s.cmd ∧ t.status = s.status

/-- R205: the `n`-th block of a macroblock in the source's raster order, (0,0) (4,0) (8,0) (12,0)
(0,4) and so on. -/
abbrev IsRasterBlock (n : Nat) (mb : Nat) (o : Operands) : Prop :=
  o.blkX = 4 * (n % 4) ∧ o.blkY = 4 * (n / 4) ∧ o.mbOffX = mb

/-- The output plane, the three caches and the parameters are the same; `RESID`, `CMD`, `STATUS` and
the model's own fields may differ. -/
structure SameSamples (s t : State) : Prop where
  params : t.params = s.params
  pixOut : ∀ i, t.pixOutAt i = s.pixOutAt i
  leftRow : ∀ i, t.leftRowAt i = s.leftRowAt i
  topLeft : ∀ i, t.topLeftAt i = s.topLeftAt i
  topLine : ∀ i, t.topLineAt i = s.topLineAt i

/-- `t` is `s` after the commands of the list, each of them accepted.  Before each of them and after the
last one the host may do whatever leaves the output plane and the caches: it writes the block's residuals
(R202) and `CMD`, it clears and reads `STATUS`. -/
def RunsCommands (l : List Instr) (s t : State) : Prop :=
  match l with
  | [] => SameSamples s t
  | i :: rest => ∃ u v, SameSamples s u ∧ InRange i u ∧ exec i u = .next v ∧ RunsCommands rest v t

end Sys2Proof.Machine

open Sys2Proof Sys2Proof.Machine

/-! ### The nine modes: the result, in the equations of spec/41_spatial_modes.md -/

/-- R130: `P[y][x] = Tx`. -/
def Obligations.VerticalPredictsFromTopRow : Prop :=
  ∀ (o : Operands) (s : State) (T R : Nat → Int),
    TopIs o s T 4 → ResidIs s R → NoDraw s o.ta →
    Predicts (.predV o) s (o.mbOffX + o.blkX + 3) R (fun x _ => T x)

/-- R131: `P[y][x] = Ly`. -/
def Obligations.HorizontalPredictsFromLeftColumn : Prop :=
  ∀ (o : Operands) (s : State) (L R : Nat → Int),
    LeftIs o s L 4 → ResidIs s R → NoDraw s o.la →
    Predicts (.predH o) s (o.mbOffX + o.blkX + 3) R (fun _ y => L y)

/-- R132: the average the flags select, floored; no neighbour is read if its flag is 0. -/
def Obligations.DcPredictsAverageByFlags : Prop :=
  ∀ (o : Operands) (s : State) (T L R : Nat → Int),
    (o.ta = true → TopIs o s T 4) → (o.la = true → LeftIs o s L 4) → ResidIs s R →
    Predicts (.predDc o) s (o.mbOffX + o.blkX + 3) R (fun _ _ =>
      if o.la = true ∧ o.ta = true then (L 0 + L 1 + L 2 + L 3 + (T 0 + T 1 + T 2 + T 3) + 4) / 8
      else if o.la = true then (L 0 + L 1 + L 2 + L 3 + 2) / 4
      else if o.ta = true then (T 0 + T 1 + T 2 + T 3 + 2) / 4
      else 0)

/-- R133: `P[y][x] = c_(x+y)`. -/
def Obligations.DownLeftPredictsAlongAntiDiagonals : Prop :=
  ∀ (o : Operands) (s : State) (T R : Nat → Int),
    TopIs o s T 4 → TopRightIs o s T 8 → ResidIs s R → NoDraw s o.ta →
    Predicts (.predDdl o) s (o.mbOffX + o.blkX + if o.tra = true then 7 else 3) R (fun x y =>
      if x + y = 6 then (T 6 + 3 * T 7 + 2) / 4
      else (T (x + y) + 2 * T (x + y + 1) + T (x + y + 2) + 2) / 4)

/-- R134: 3-tap averages along the diagonals `x - y = d`. -/
def Obligations.DownRightPredictsAlongDiagonals : Prop :=
  ∀ (o : Operands) (s : State) (T L R : Nat → Int) (Q : Int),
    TopIs o s T 4 → LeftIs o s L 4 → CornerIs o s Q → ResidIs s R → NoDraw s (o.la && o.ta) →
    Predicts (.predDdr o) s (o.mbOffX + o.blkX + 3) R (fun x y =>
      let top := withCorner Q T
      let left := withCorner Q L
      let d : Int := (x : Int) - y
      let e : Int := (y : Int) - x
      if d > 0 then avg3 (top (d - 2)) (top (d - 1)) (top d)
      else if e > 0 then avg3 (left (e - 2)) (left (e - 1)) (left e)
      else avg3 (T 0) Q (L 0))

/-- R135: the equations in `zVR = 2*x - y`; L3 is never read. -/
def Obligations.VerticalRightPredictsByZvr : Prop :=
  ∀ (o : Operands) (s : State) (T L R : Nat → Int) (Q : Int),
    TopIs o s T 4 → LeftIs o s L 3 → CornerIs o s Q → ResidIs s R → NoDraw s (o.la && o.ta) →
    Predicts (.predVr o) s (o.mbOffX + o.blkX + 3) R (fun x y =>
      let top := withCorner Q T
      let left := withCorner Q L
      let zVR : Int := 2 * x - y
      let k : Int := (x : Int) - (y / 2 : Nat)
      if zVR = 0 ∨ zVR = 2 ∨ zVR = 4 ∨ zVR = 6 then avg2 (top (k - 1)) (top k)
      else if zVR = 1 ∨ zVR = 3 ∨ zVR = 5 then avg3 (top (k - 2)) (top (k - 1)) (top k)
      else if zVR = -1 then avg3 (L 0) Q (T 0)
      else avg3 (left (y - 1)) (left (y - 2)) (left (y - 3)))

/-- R136: the equations in `zHD = 2*y - x`; T3 is never read by the predictor. -/
def Obligations.HorizontalDownPredictsByZhd : Prop :=
  ∀ (o : Operands) (s : State) (T L R : Nat → Int) (Q : Int),
    TopIs o s T 3 → LeftIs o s L 4 → CornerIs o s Q → ResidIs s R → NoDraw s (o.la && o.ta) →
    Predicts (.predHd o) s (o.mbOffX + o.blkX + 3) R (fun x y =>
      let top := withCorner Q T
      let left := withCorner Q L
      let zHD : Int := 2 * y - x
      let k : Int := (y : Int) - (x / 2 : Nat)
      if zHD = 0 ∨ zHD = 2 ∨ zHD = 4 ∨ zHD = 6 then avg2 (left (k - 1)) (left k)
      else if zHD = 1 ∨ zHD = 3 ∨ zHD = 5 then avg3 (left (k - 2)) (left (k - 1)) (left k)
      else if zHD = -1 then avg3 (L 0) Q (T 0)
      else avg3 (top (x - 1)) (top (x - 2)) (top (x - 3)))

/-- R137: `i = x + (y >> 1)`, 2-tap in rows 0 and 2, 3-tap in rows 1 and 3. -/
def Obligations.VerticalLeftPredictsByRowParity : Prop :=
  ∀ (o : Operands) (s : State) (T R : Nat → Int),
    TopIs o s T 4 → TopRightIs o s T 7 → ResidIs s R → NoDraw s o.ta →
    Predicts (.predVl o) s (o.mbOffX + o.blkX + if o.tra = true then 6 else 3) R (fun x y =>
      let i := x + y / 2
      if y % 2 = 0 then avg2 (T i) (T (i + 1)) else avg3 (T i) (T (i + 1)) (T (i + 2)))

/-- R138: the equations in `zHU = x + 2*y`, L3 replicated past the column's end. -/
def Obligations.HorizontalUpPredictsByZhu : Prop :=
  ∀ (o : Operands) (s : State) (L R : Nat → Int),
    LeftIs o s L 4 → ResidIs s R → NoDraw s o.la →
    Predicts (.predHu o) s (o.mbOffX + o.blkX + 3) R (fun x y =>
      let zHU := x + 2 * y
      let j := y + x / 2
      if zHU > 5 then L 3
      else if zHU = 5 then (L 2 + 3 * L 3 + 2) / 4
      else if zHU % 2 = 0 then avg2 (L j) (L (j + 1))
      else avg3 (L j) (L (j + 1)) (L (j + 2)))

/-! ### All nine commands -/

/-- R176, R177: a command is rejected with `ERR_RANGE` exactly when it would touch a `TOPLINE` index
past the end, and then nothing but the two fields of `STATUS` changes. -/
def Obligations.RangeTestDecidesRejection : Prop :=
  ∀ (i : Instr) (s : State),
    (InRange i s → ∃ t, exec i s = .next t ∧ t.status.lastErr = 0) ∧
    (¬ InRange i s → exec i s = .next (rejected 4 s))

/-- R108, R111, R113, R178, in every mode and for every flag value, for a command that reads no poison
and draws nothing: what it writes, and that it writes nothing else. -/
def Obligations.CacheUpdateInvariantHoldsInEveryMode : Prop :=
  ∀ (i : Instr) (s : State), InRange i s → ¬ ReadsPoison i s → NoDraw s (requirementMet i) →
    ∃ t, exec i s = .next t ∧ Accepted i.operands s t (oldCorner i.operands s) (fun _ _ e => e ≠ .poison)

/-- The same whatever the entries hold and whether or not the outputs are drawn.  That the caches take
drawn outputs as `PIXOUT` does is the model's choice, log entry 4; that a command that reads poison
poisons every entry it writes, the corner among them, is R33's recommended reading, and which reads count
is log entry 6. -/
def Obligations.AcceptedCommandWritesBlockAndCaches : Prop :=
  ∀ (i : Instr) (s : State), InRange i s →
    ∃ t, exec i s = .next t ∧ Accepted i.operands s t
      (if ReadsPoison i s then .poison else oldCorner i.operands s) (fun _ _ _ => True)

/-- R103, R112: the outputs are a function of the read set, the residuals and the word.  Two states that
agree there may differ everywhere else, in `PIXOUT`, in sentinels at `TOPLINE[to+4..]` with TRA = 0, in
`STATUS`: the blocks written are the same.  R114 says so without poison and draws only; that equal draw
counters give equal draws is the model's choice (log entries 4 and 5), and that poison gives poison is log
entry 6. -/
def Obligations.OutputsDependOnReadSetOnly : Prop :=
  ∀ (i : Instr) (s s' : State), InRange i s → s'.params = s.params → s'.draws = s.draws →
    (∀ j < 16, s'.residAt j = s.residAt j) →
    (∀ c ∈ readSet i, neighbourEntry i.operands s' c = neighbourEntry i.operands s c) →
    ∃ t t', exec i s = .next t ∧ exec i s' = .next t' ∧
      ∀ x < 4, ∀ y < 4, t'.pixOutAt (16 * (i.operands.blkY + y) + i.operands.blkX + x) =
        t.pixOutAt (16 * (i.operands.blkY + y) + i.operands.blkX + x)

/-- R33 by its recommended reading, and U8: a command whose read set or residuals include poison completes,
and every entry it writes, `TOPLEFT[band]` among them, is poison.  Which reads count is log entry 6. -/
def Obligations.PoisonReadWritesPoison : Prop :=
  ∀ (i : Instr) (s : State), InRange i s → ReadsPoison i s →
    ∃ t, exec i s = .next t ∧ Accepted i.operands s t .poison (fun _ _ e => e = .poison)

/-- R104 with `UNAVAILABLE_READ = draw`: a command that needs an unavailable neighbour completes and
writes int8 values, of which nothing else is said; the rest of the command is unchanged.  That the caches
take the values `PIXOUT` takes is log entry 4. -/
def Obligations.DrawnOutputsAreValues : Prop :=
  ∀ (i : Instr) (s : State), InRange i s → s.params.unavailableRead = .draw →
    requirementMet i = false → ¬ ReadsPoison i s →
    ∃ t, exec i s = .next t ∧ Accepted i.operands s t (oldCorner i.operands s) (fun _ _ e => e ≠ .poison)

/-- R104 with `UNAVAILABLE_READ = cache`: only DC (MODE 2) reads LA and TA, and only DDL (3) and VL (7)
read TRA; every other command does the same whatever those flags are. -/
def Obligations.OtherFlagsAreNotRead : Prop :=
  ∀ (i : Instr) (s : State) (la ta tra : Bool), s.params.unavailableRead = .cache →
    (i.mode ≠ 2 →
      exec (withOperands i { i.operands with la := la, ta := ta }) s = exec i s) ∧
    (i.mode ≠ 3 → i.mode ≠ 7 → exec (withOperands i { i.operands with tra := tra }) s = exec i s)

/-- R182: a command does the same whatever `STATUS` holds; a sticky error blocks nothing. -/
def Obligations.StatusNeverAffectsCommands : Prop :=
  ∀ (i : Instr) (s : State) (st : Status), ∃ t, exec i s = .next t ∧
    exec i { s with status := st } = .next { t with status :=
      if t.status.lastErr = 0 then { st with lastErr := 0 }
      else { st with lastErr := t.status.lastErr, errSticky := true } }

/-- R106 and the source's S1: with a zero residual a command writes its predictor itself; with the
residuals `R` it writes `clip8` of that predictor plus the residual. -/
def Obligations.ResidualAddsToZeroResidualOutput : Prop :=
  ∀ (i : Instr) (s : State) (m : Memory 32) (R : Nat → Int), InRange i s →
    s.params.unavailableRead = .cache →
    (∀ c ∈ readSet i, neighbourEntry i.operands s c ≠ .poison) →
    ResidIs s (fun _ => 0) → ResidIs { s with resid := m } R →
    ∃ t t', exec i s = .next t ∧ exec i { s with resid := m } = .next t' ∧
      ∀ x < 4, ∀ y < 4, Holds (t'.pixOutAt (16 * (i.operands.blkY + y) + i.operands.blkX + x))
        (min 127 (max (-128) (R (4 * y + x) +
          entryInt (t.pixOutAt (16 * (i.operands.blkY + y) + i.operands.blkX + x)))))

/-- R205 with R204 (a) to (d), for the source's raster order inside one macroblock: when the block
after the commands of `l` is issued, its left, top, corner and top-right neighbours are the samples
reconstructed in `PIXOUT`, wherever they lie in the macroblock; and at `blkX = 12` the top-right cells
still hold what they held before the macroblock.  The host may write the residuals between the commands
(R202).  The corner is poison where the command before read poison (R33, log entry 6); that drawn outputs
are the same in `PIXOUT` and the caches is log entry 4. -/
def Obligations.RasterOrderGivesCausalNeighbours : Prop :=
  ∀ (mb : Nat) (l : List Instr) (s t : State) (o : Operands), l.length < 16 →
    (∀ n i, l[n]? = some i → IsRasterBlock n mb i.operands) → RunsCommands l s t →
    IsRasterBlock l.length mb o →
    (0 < o.blkX → ∀ j < 4, t.leftRowAt (o.blkY + j) = t.pixOutAt (16 * (o.blkY + j) + o.blkX - 1)) ∧
    (0 < o.blkY → ∀ i < 4,
      t.topLineAt (mb + o.blkX + i) = t.pixOutAt (16 * (o.blkY - 1) + o.blkX + i)) ∧
    (0 < o.blkX → 0 < o.blkY → t.topLeftAt (o.blkY / 4) ≠ .poison →
      t.topLeftAt (o.blkY / 4) = t.pixOutAt (16 * (o.blkY - 1) + o.blkX - 1)) ∧
    (0 < o.blkY → o.blkX < 12 → ∀ i < 4,
      t.topLineAt (mb + o.blkX + 4 + i) = t.pixOutAt (16 * (o.blkY - 1) + o.blkX + 4 + i)) ∧
    (o.blkX = 12 → ∀ i < 4, t.topLineAt (mb + o.blkX + 4 + i) = s.topLineAt (mb + o.blkX + 4 + i))

/-! ### Arithmetic -/

/-- R8, R9, R10: the shift floors, the clip is to -128..127, and the averages have weights 1, 1 and
1, 2, 1 with half the divisor added. -/
def Obligations.ShiftFloorsClipAndAveragesRound : Prop :=
  (∀ (a : Int) (n : Nat), shr a n * 2 ^ n ≤ a ∧ a < (shr a n + 1) * 2 ^ n) ∧
  shr (-3) 2 = -1 ∧ shr (-1) 1 = -1 ∧
  (∀ v, clip8 v = min 127 (max (-128) v)) ∧
  (∀ a b, avg2 a b = shr (a + b + 1) 1) ∧
  (∀ a b c, avg3 a b c = shr (a + 2 * b + c + 2) 2 ∧ avg3 a b c = avg3 c b a)

/-- R141: the signed engine is the unsigned standard shifted by 128: the averages, the DC averages, the
`(a + 3b + 2) >> 2` form, and the clip. -/
def Obligations.SignedArithmeticIsUnsignedMinus128 : Prop :=
  (∀ a b, avg2 (a - 128) (b - 128) = avg2 a b - 128) ∧
  (∀ a b c, avg3 (a - 128) (b - 128) (c - 128) = avg3 a b c - 128) ∧
  (∀ a b, shr ((a - 128) + 3 * (b - 128) + 2) 2 = shr (a + 3 * b + 2) 2 - 128) ∧
  (∀ (la ta : Bool) (n : Neighbours), (la || ta) = true →
    dcValue la ta { n with
      t0 := n.t0 - 128, t1 := n.t1 - 128, t2 := n.t2 - 128, t3 := n.t3 - 128,
      l0 := n.l0 - 128, l1 := n.l1 - 128, l2 := n.l2 - 128, l3 := n.l3 - 128 } =
    dcValue la ta n - 128) ∧
  (∀ r p, clip8 (r + p - 128) = min 255 (max 0 (r + p)) - 128)

/-! ### The encoding -/

/-- R80, R84, R86, R91: no bit of an encoding is dropped. -/
def Obligations.DecodeOfEncodeIsTheCommand : Prop :=
  ∀ i : Instr, i.WellFormed → decodeWord (encode i) = .instr i

/-- R88, R90: a word that decodes has one meaning, and the encoder gives that word back. -/
def Obligations.EncodeOfDecodeIsTheWord : Prop :=
  ∀ (w : Word) (i : Instr), decodeWord w = .instr i → i.WellFormed ∧ encode i = w

/-- R88: the mask 0x0000F08F and the match select the command. -/
def Obligations.MaskAndMatchSelectTheMode : Prop :=
  ∀ (w : Word) (m : Nat), m ≤ 8 →
    (w &&& 0x0000F08F#32 = BitVec.ofNat 32 m ↔ ∃ i, decodeWord w = .instr i ∧ i.mode = m)

/-- R89: every word is a command or is illegal, by the first failing test. -/
def Obligations.IllegalWordsByFirstFailingTest : Prop :=
  ∀ w : Word,
    (w.toNat / 4096 % 16 ≠ 0 → decodeWord w = .illegal .reservedClass) ∧
    (w.toNat / 4096 % 16 = 0 → w.toNat / 128 % 2 = 1 → decodeWord w = .illegal .reservedBit) ∧
    (w.toNat / 4096 % 16 = 0 → w.toNat / 128 % 2 = 0 → 9 ≤ w.toNat % 16 →
      decodeWord w = .illegal .modeOutOfRange) ∧
    (w.toNat / 4096 % 16 = 0 → w.toNat / 128 % 2 = 0 → w.toNat % 16 ≤ 8 →
      ∃ i, decodeWord w = .instr i)

/-- R81, R82, R84, R86, R87: the fields of a command word. -/
def Obligations.FieldsOfACommandWord : Prop :=
  ∀ (w : Word) (i : Instr), decodeWord w = .instr i →
    i.mode = w.toNat % 16 ∧
    i.operands.la = decide (w.toNat / 16 % 2 = 1) ∧
    i.operands.ta = decide (w.toNat / 32 % 2 = 1) ∧
    i.operands.tra = decide (w.toNat / 64 % 2 = 1) ∧
    i.operands.blkX = 4 * (w.toNat / 256 % 4) ∧
    i.operands.blkY = 4 * (w.toNat / 1024 % 4) ∧
    i.operands.mbOffX = w.toNat / 65536 ∧
    topIndex i.operands = w.toNat / 65536 + 4 * (w.toNat / 256 % 4) ∧
    band i.operands = w.toNat / 1024 % 4 ∧
    pixIndex i.operands 0 0 = 16 * i.operands.blkY + i.operands.blkX

/-- R93: the words of the spec's encoding examples. -/
def Obligations.EncodingExamplesDecode : Prop :=
  decodeWord 0x00000000#32 = .instr (.predV ⟨false, false, false, 0, 0, 0⟩) ∧
  decodeWord 0x00100520#32 = .instr (.predV ⟨false, true, false, 4, 4, 16⟩) ∧
  decodeWord 0x00100532#32 = .instr (.predDc ⟨true, true, false, 4, 4, 16⟩) ∧
  decodeWord 0x00100502#32 = .instr (.predDc ⟨false, false, false, 4, 4, 16⟩) ∧
  decodeWord 0x00100563#32 = .instr (.predDdl ⟨false, true, true, 4, 4, 16⟩) ∧
  decodeWord 0xFFF00F34#32 = .instr (.predDdr ⟨true, true, false, 12, 12, 0xFFF0⟩) ∧
  decodeWord 0x00200818#32 = .instr (.predHu ⟨true, false, false, 0, 8, 32⟩) ∧
  decodeWord 0x00000009#32 = .illegal .modeOutOfRange ∧
  decodeWord 0x00000080#32 = .illegal .reservedBit ∧
  decodeWord 0x00001000#32 = .illegal .reservedClass

/-! ### The step, reset and the invariants -/

/-- R59, R26, R177: the host's write of `w` to `CMD` stores `w` and runs the decoded command; an illegal
word is rejected with its code. -/
def Obligations.StepRunsTheDecodedCommand : Prop :=
  ∀ (s : State) (w : Word) (rest : List HostEvent),
    s.pending = .write (s.params.base + 0x00000) 4 w :: rest →
    let u : State :=
      { s with pending := rest, cmd := w, resp := some { error := false, data := none } }
    (∀ i, decodeWord w = .instr i → step s = exec i u) ∧
    (decodeWord w = .illegal .reservedClass → step s = .next (rejected 1 u)) ∧
    (decodeWord w = .illegal .reservedBit → step s = .next (rejected 2 u)) ∧
    (decodeWord w = .illegal .modeOutOfRange → step s = .next (rejected 3 u))

/-- R91, R92: a line `pred.<m> <operands>` the assembler accepts expands to the write of its encoding to
`CMD`, and the step runs that command on those operands. -/
def Obligations.AssembledLineRunsItsCommand : Prop :=
  ∀ (i : Instr) (s : State) (rest : List HostEvent), i.WellFormed →
    s.pending = expand s.params (.pred i) ++ rest →
    step s = exec i { s with
      pending := rest
      cmd := encode i
      resp := some { error := false, data := none } }

/-- R172, R171, R177, R178: after a write of `w` to `CMD`, `CMD` holds `w` and `LAST_ERR` is `Check(w)`;
if that is not 0, only the two fields of `STATUS` and the transaction itself have changed. -/
def Obligations.LastErrIsCheckOfTheWord : Prop :=
  ∀ (s : State) (w : Word) (rest : List HostEvent),
    s.pending = .write (s.params.base + 0x00000) 4 w :: rest →
    ∃ t, step s = .next t ∧ t.cmd = w ∧
      t.status.lastErr.toNat = checkCode s.params.tlLen w.toNat ∧
      (checkCode s.params.tlLen w.toNat ≠ 0 →
        t = { rejected t.status.lastErr s with
          pending := rest, cmd := w, resp := some { error := false, data := none } }) ∧
      (checkCode s.params.tlLen w.toNat = 0 →
        t.status.errSticky = s.status.errSticky ∧ t.status.busErrSticky = s.status.busErrSticky)

/-- R20, R27, R32: every step keeps the state sound: the arrays canonical and of their lengths,
`LAST_ERR` one of 0 to 4, the parameters legal. -/
def Obligations.StepKeepsSoundness : Prop :=
  ∀ s t : State, s.Sound → step s = .next t → t.Sound

/-- R32: the state after reset is sound, for every legal value of the parameters; the parameters of
`State.reset` are the model's choice (log entry 1). -/
def Obligations.ResetIsSound : Prop :=
  (∀ p : Params, p.WellFormed → (State.resetWith p).Sound) ∧ State.reset.Sound

/-- R32, R33: with `RESET_FILL` a fixed value no entry is ever poison: every step keeps that. -/
def Obligations.StepKeepsArraysFreeOfPoison : Prop :=
  ∀ s t : State, s.params.resetFill ≠ .poison → s.NoPoison → step s = .next t → t.NoPoison

/-- R32: with `RESET_FILL` a fixed value `f`, every entry holds `f` after reset. -/
def Obligations.ResetWithFixedFillHasNoPoison : Prop :=
  ∀ p : Params, p.resetFill ≠ .poison → (State.resetWith p).NoPoison

/-- R32, R200: a reset between transactions sets `CMD` and `STATUS` to 0 and every array entry to
`RESET_FILL`, and executes nothing; the parameters, `TL_LEN` of `CONFIG` among them, stay. -/
def Obligations.ResetEventSetsEveryPiece : Prop :=
  ∀ (s : State) (rest : List HostEvent), s.pending = .reset :: rest →
    ∃ t, step s = .next t ∧ t.cmd = 0 ∧ t.params = s.params ∧
      t.status = { lastErr := 0, errSticky := false, busErrSticky := false } ∧
      (∀ i, t.pixOutAt i = s.params.resetFill ∧ t.leftRowAt i = s.params.resetFill ∧
        t.topLeftAt i = s.params.resetFill ∧ t.topLineAt i = s.params.resetFill) ∧
      (s.params.resetFill = .poison → ∀ i, t.residAt i = .poison) ∧
      (∀ f, s.params.resetFill = .val f → ∀ i, Holds (t.residAt i) f.toInt)

/-- R27, R182: `ERR_STICKY` and `BUSERR_STICKY` are cleared only by reset or by a host write to `STATUS`
with their bit 1. -/
def Obligations.StickyBitsClearedOnlyByHostOrReset : Prop :=
  ∀ s t : State, step s = .next t →
    (s.status.errSticky = true → t.status.errSticky = false → s.pending.head? = some .reset ∨
      ∃ v : Word, s.pending.head? = some (.write (s.params.base + 0x00004) 4 v) ∧
        v.toNat / 256 % 2 = 1) ∧
    (s.status.busErrSticky = true → t.status.busErrSticky = false → s.pending.head? = some .reset ∨
      ∃ v : Word, s.pending.head? = some (.write (s.params.base + 0x00004) 4 v) ∧
        v.toNat / 512 % 2 = 1)

/-- R21: no command changes `RESID`: only a host write to its slot or a reset does.  R28: nothing
changes the parameters. -/
def Obligations.ResidChangesOnlyByHostOrReset : Prop :=
  ∀ s t : State, step s = .next t → t.params = s.params ∧
    ∀ i, t.residAt i = s.residAt i ∨ s.pending.head? = some .reset ∨
      ∃ v : Word, s.pending.head? = some (.write (s.params.base + 0x00100 + 4 * i) 4 v)

/-- R2: without a host event the engine takes no step of its own; R140, R182: with one, it goes on
to the host's next event, unless the address is outside the window, which the model makes a fault
(log entry 7). -/
def Obligations.StepStopsOnlyOutsideTheWindow : Prop :=
  ∀ s : State,
    (s.pending = [] → step s = .next s) ∧
    (s.pending.head? = some .reset → ∃ t, step s = .next t ∧ t.pending = s.pending.tail) ∧
    (∀ addr size, s.pending.head? = some (.read addr size) →
      if s.params.base ≤ addr ∧ addr < s.params.base + 2 ^ 19 then
        ∃ t, step s = .next t ∧ t.pending = s.pending.tail
      else step s = .fault (.outsideWindow addr)) ∧
    (∀ addr size v, s.pending.head? = some (.write addr size v) →
      if s.params.base ≤ addr ∧ addr < s.params.base + 2 ^ 19 then
        ∃ t, step s = .next t ∧ t.pending = s.pending.tail
      else step s = .fault (.outsideWindow addr))

/-- R179, R27: a run without a faulty transaction keeps the state sound and never sets
`BUSERR_STICKY`. -/
def Obligations.SafeRunSetsNoBusError : Prop :=
  ∀ (n : Nat) (s t : State), s.Sound → SafeRun n s t →
    t.Sound ∧ (t.status.busErrSticky = true → s.status.busErrSticky = true)

/-! ### The host register window -/

/-- R51, R62: the slots and their offsets; nothing else is mapped. -/
def Obligations.WindowMapIsTheTable : Prop :=
  ∀ (p : Params) (off : Nat) (k : Slot), p.tlLen ≤ 65536 →
    (slotAt p off = some k ↔ k.Mapped p ∧ off = slotOffset k)

/-- R54, R57: a read of a mapped slot answers its value, sign-extended, and changes nothing; the same
read again answers the same word, be the entry poison. -/
def Obligations.ReadAnswersTheSlotAndChangesNothing : Prop :=
  ∀ (s : State) (k : Slot) (rest : List HostEvent), s.params.tlLen ≤ 65536 → k.Mapped s.params →
    s.pending = .read (s.params.base + slotOffset k) 4 :: rest →
    ∃ w : Word,
      step s = .next { s with pending := rest, resp := some { error := false, data := some w } } ∧
      (∀ v, slotHolds s k v → w.toInt = v) ∧ (k = .cmd → w = s.cmd) ∧
      (∀ rest', rest = .read (s.params.base + slotOffset k) 4 :: rest' →
        step { s with pending := rest, resp := some { error := false, data := some w } } =
          .next { s with pending := rest', resp := some { error := false, data := some w } })

/-- R55, R56: a write to a sample slot stores `s8(v)`, to a `RESID` slot `s32(v)`, and changes no
other slot. -/
def Obligations.WriteStoresInThatSlotOnly : Prop :=
  ∀ (s : State) (k : Slot) (v : Word) (rest : List HostEvent), s.params.tlLen ≤ 65536 →
    k.Mapped s.params → s.pending = .write (s.params.base + slotOffset k) 4 v :: rest →
    (isSample k → ∃ t, step s = .next t ∧ SameBut k s t ∧ t.pending = rest ∧
      t.resp = some { error := false, data := none } ∧
      slotHolds t k (if v.toNat % 256 < 128 then (v.toNat % 256 : Nat) else (v.toNat % 256 : Nat) - 256)) ∧
    (∀ i, k = .resid i → ∃ t, step s = .next t ∧ SameBut k s t ∧ t.pending = rest ∧
      t.resp = some { error := false, data := none } ∧ slotHolds t k v.toInt)

/-- R60: what a write to `STATUS` clears, and what `STATUS` reads as. -/
def Obligations.StatusSlotReadAndClear : Prop :=
  ∀ (s : State) (rest : List HostEvent),
    (∀ v : Word, s.pending = .write (s.params.base + 0x00004) 4 v :: rest →
      step s = .next { s with
        pending := rest
        resp := some { error := false, data := none }
        status := {
          lastErr := s.status.lastErr
          errSticky := if v.toNat / 256 % 2 = 1 then false else s.status.errSticky
          busErrSticky := if v.toNat / 512 % 2 = 1 then false else s.status.busErrSticky } }) ∧
    (s.pending = .read (s.params.base + 0x00004) 4 :: rest →
      ∃ w : Word, w.toNat = s.status.lastErr.toNat + 256 * s.status.errSticky.toNat
          + 512 * s.status.busErrSticky.toNat ∧
        step s = .next { s with pending := rest, resp := some { error := false, data := some w } })

/-- R61, R28: `CONFIG` reads as `{0x01, 7'b0, TL_LEN}`, and a write to it is a bus error. -/
def Obligations.ConfigSlotReadsTlLen : Prop :=
  ∀ (s : State) (rest : List HostEvent), s.params.tlLen ≤ 65536 →
    (s.pending = .read (s.params.base + 0x00008) 4 :: rest →
      ∃ w : Word, w.toNat = 0x01000000 + s.params.tlLen ∧
        step s = .next { s with pending := rest, resp := some { error := false, data := some w } }) ∧
    (∀ v : Word, s.pending = .write (s.params.base + 0x00008) 4 v :: rest →
      step s = .next { s with
        pending := rest
        resp := some { error := true, data := none }
        status := { s.status with busErrSticky := true } })

/-- R53, R179: a misaligned, wrong-size or unmapped access, or a write to `CONFIG`, ends in an error
response, a read with data word 0; `BUSERR_STICKY` is set and nothing else changes. -/
def Obligations.BadAccessIsABusError : Prop :=
  ∀ (s : State) (addr size : Nat) (rest : List HostEvent),
    s.params.base ≤ addr → addr < s.params.base + 2 ^ 19 →
    let bad := (addr - s.params.base) % 4 ≠ 0 ∨ size ≠ 4 ∨
      ∀ k : Slot, k.Mapped s.params → s.params.base + slotOffset k ≠ addr
    (s.pending = .read addr size :: rest → bad → step s = .next { s with
      pending := rest
      resp := some { error := true, data := some 0 }
      status := { s.status with busErrSticky := true } }) ∧
    (∀ v : Word, s.pending = .write addr size v :: rest →
      (bad ∨ addr = s.params.base + 0x00008) → step s = .next { s with
        pending := rest
        resp := some { error := true, data := none }
        status := { s.status with busErrSticky := true } })
end

