-- ==== Sys2Proof/Laws/Arith.lean ====
section
/-! SUPPORT. The arithmetic of R7 to R10: the shift floors, the clip bounds, the averages stay
between their taps, and an int8 store keeps an already clipped value. -/

namespace Sys2Proof.Machine

@[simp] theorem shr_one (a : Int) : shr a 1 = a / 2 := rfl
@[simp] theorem shr_two (a : Int) : shr a 2 = a / 4 := rfl
@[simp] theorem shr_three (a : Int) : shr a 3 = a / 8 := rfl

theorem avg2_eq (a b : Int) : avg2 a b = (a + b + 1) / 2 := rfl
theorem avg3_eq (a b c : Int) : avg3 a b c = (a + 2 * b + c + 2) / 4 := rfl

/-- R10: the outer taps have the same weight. -/
theorem avg3_comm (a b c : Int) : avg3 a b c = avg3 c b a := by
  simp only [avg3_eq]; congr 1; ring

theorem clip8_bounds (v : Int) : -128 ≤ clip8 v ∧ clip8 v ≤ 127 := by
  unfold clip8; omega

/-- A value in the int8 range is not clipped. -/
theorem clip8_of_bounds {v : Int} (h : -128 ≤ v ∧ v ≤ 127) : clip8 v = v := by
  unfold clip8; omega

/-- The value of an int8 entry is in the int8 range. -/
theorem entryInt_bounds (e : Entry 8) : -128 ≤ entryInt e ∧ entryInt e ≤ 127 := by
  cases e with
  | poison => simp [entryInt]
  | val v =>
    have h1 := BitVec.le_toInt v
    have h2 := BitVec.toInt_lt (x := v)
    simp only [entryInt]
    norm_num at h1 h2
    omega

/-- R7 (a): the store of a clipped value is exact. -/
theorem entryInt_sampleEntry_clip8 (v : Int) : entryInt (sampleEntry (clip8 v)) = clip8 v := by
  have h := clip8_bounds v
  simp only [sampleEntry, entryInt, BitVec.toInt_ofInt]
  rw [Int.bmod_def]
  norm_num
  omega

@[simp] theorem sampleEntry_ne_poison (v : Int) : sampleEntry v ≠ .poison := by simp [sampleEntry]

end Sys2Proof.Machine
end

