-- ==== Sys2Proof/Laws/Decode.lean ====
section
/-! SUPPORT. The fields of a word, and the operations of the decoder. -/

namespace Sys2Proof

theorem field_lt (lo len : Nat) (w : Word) : field lo len w < 2 ^ len :=
  (w.extractLsb' lo len).isLt

theorem field_eq (lo len : Nat) (w : Word) : field lo len w = w.toNat / 2 ^ lo % 2 ^ len := by
  simp [field, BitVec.extractLsb'_toNat, Nat.shiftRight_eq_div_pow]

theorem mode_le (i : Instr) : i.mode ≤ 8 := by
  cases i <;> simp [Instr.mode]

/-- Every decoded operand is one the assembler can write. -/
theorem decodeOperands_wellFormed (w : Word) : (decodeOperands w).WellFormed := by
  have h1 := field_lt 8 2 w
  have h2 := field_lt 10 2 w
  have h3 := field_lt 16 16 w
  simp only [Operands.WellFormed, BlockOffset, decodeOperands]
  omega

/-- What a mode code names, if anything: a command of that mode with those operands. -/
theorem modeInstr_eq_instr {m : Nat} {o : Operands} {i : Instr} (h : modeInstr m o = .instr i) :
    i.operands = o ∧ i.mode = m ∧ m ≤ 8 := by
  unfold modeInstr at h
  split at h <;> first
    | (cases h; exact ⟨rfl, rfl, by omega⟩)
    | exact absurd h (by simp)

/-- Each mode has its constructor: the mode and the operands determine the command. -/
theorem modeInstr_mode (i : Instr) : modeInstr i.mode i.operands = .instr i := by
  cases i <;> rfl

/-- All that decoding to a command says of the word. -/
theorem decodeWord_eq_instr {w : Word} {i : Instr} (h : decodeWord w = .instr i) :
    field 12 4 w = 0 ∧ w.getLsbD 7 = false ∧ i.mode = field 0 4 w ∧ i.operands = decodeOperands w := by
  unfold decodeWord at h
  split at h
  · exact absurd h (by simp)
  · split at h
    · exact absurd h (by simp)
    · rename_i h1 h2
      obtain ⟨ho, hm, -⟩ := modeInstr_eq_instr h
      exact ⟨not_not.1 h1, by simpa using h2, hm, ho⟩

end Sys2Proof
end

