-- ==== Sys2Proof/Laws/Memory.lean ====
section
/-! SUPPORT. The arrays' contents: what a read gives after a write, and that every operation keeps
the canonical form. -/

namespace Sys2Proof.Machine

variable {w : Nat} {d v : Entry w} {m : Memory w} {i j lo n : Nat} {l : List (Nat × Entry w)}

@[simp] theorem memGet_nil : memGet d [] i = d := rfl

theorem memGet_memErase (d : Entry w) (m : Memory w) (i j : Nat) :
    memGet d (memErase m i) j = if j = i then d else memGet d m j := by
  induction m with
  | nil => simp [memErase, memGet]
  | cons c rest ih =>
    obtain ⟨k, e⟩ := c
    by_cases hk : k = i
    · simp only [memErase, hk, if_true, ih]
      by_cases hj : j = i <;> simp [hj, memGet]
    · simp only [memErase, hk, if_false, memGet, ih]
      by_cases hj : j = i
      · have : j ≠ k := by omega
        simp [hj, Ne.symm hk]
      · simp [hj]

theorem memGet_memInsert (h : ∀ c ∈ m, c.1 ≠ i) :
    memGet d (memInsert m i v) j = if j = i then v else memGet d m j := by
  induction m with
  | nil => simp [memInsert, memGet]
  | cons c rest ih =>
    obtain ⟨k, e⟩ := c
    have hk : k ≠ i := h (k, e) (by simp)
    have ih := ih (fun c hc => h c (by simp [hc]))
    by_cases hi : i < k
    · simp [memInsert, hi, memGet]
    · simp only [memInsert, hi, if_false, memGet, ih]
      by_cases hj : j = i
      · simp [hj, Ne.symm hk]
      · simp [hj]

theorem memErase_ne : ∀ c ∈ memErase m i, c.1 ≠ i := by
  induction m with
  | nil => simp [memErase]
  | cons c rest ih =>
    obtain ⟨k, e⟩ := c
    by_cases hk : k = i
    · simpa [memErase, hk] using ih
    · simp only [memErase, hk, if_false, List.mem_cons]
      rintro c (rfl | hc)
      · exact hk
      · exact ih c hc

/-- A read after a write. -/
theorem memGet_memSet (d : Entry w) (m : Memory w) (i : Nat) (v : Entry w) (j : Nat) :
    memGet d (memSet d m i v) j = if j = i then v else memGet d m j := by
  by_cases hv : v = d
  · simp only [memSet, hv, if_true, memGet_memErase]
  · simp only [memSet, hv, if_false]
    rw [memGet_memInsert memErase_ne, memGet_memErase]
    by_cases hj : j = i <;> simp [hj]

/-- A write leaves every other index alone, through a list of writes. -/
theorem memGet_memSetAll_of_not_mem (h : ∀ c ∈ l, c.1 ≠ j) :
    memGet d (memSetAll d m l) j = memGet d m j := by
  induction l generalizing m with
  | nil => rfl
  | cons c rest ih =>
    obtain ⟨i, v⟩ := c
    have hi : j ≠ i := Ne.symm (h (i, v) (by simp))
    rw [memSetAll, ih (fun c hc => h c (by simp [hc])), memGet_memSet, if_neg hi]

/-- A list of writes to distinct indices stores each of them. -/
theorem memGet_memSetAll_of_mem (h : l.Pairwise (fun a b => a.1 ≠ b.1)) (hj : (j, v) ∈ l) :
    memGet d (memSetAll d m l) j = v := by
  induction l generalizing m with
  | nil => simp at hj
  | cons c rest ih =>
    obtain ⟨i, u⟩ := c
    rw [List.pairwise_cons] at h
    rcases List.mem_cons.1 hj with heq | hmem
    · obtain ⟨rfl, rfl⟩ := Prod.mk.inj heq
      rw [memSetAll, memGet_memSetAll_of_not_mem (fun c hc => Ne.symm (h.1 c hc)), memGet_memSet,
        if_pos rfl]
    · rw [memSetAll, ih h.2 hmem]

/-! ### The canonical form -/

theorem memOk_cons {e : Entry w} :
    memOk d lo ((j, e) :: m) = true ↔ lo ≤ j ∧ e ≠ d ∧ memOk d (j + 1) m = true := by
  simp [memOk, and_assoc]

theorem memOk_mono (h : memOk d lo m = true) {lo' : Nat} (hle : lo' ≤ lo) :
    memOk d lo' m = true := by
  cases m with
  | nil => rfl
  | cons c rest =>
    obtain ⟨k, e⟩ := c
    rw [memOk_cons] at h ⊢
    exact ⟨by omega, h.2⟩

theorem memErase_ok (h : memOk d lo m = true) : memOk d lo (memErase m i) = true := by
  induction m generalizing lo with
  | nil => rfl
  | cons c rest ih =>
    obtain ⟨k, e⟩ := c
    rw [memOk_cons] at h
    by_cases hk : k = i
    · simp only [memErase, hk, if_true]
      exact memOk_mono (ih h.2.2) (by omega)
    · simp only [memErase, hk, if_false, memOk_cons]
      exact ⟨h.1, h.2.1, ih h.2.2⟩

theorem memInsert_ok (h : memOk d lo m = true) (hne : ∀ c ∈ m, c.1 ≠ i) (hv : v ≠ d)
    (hlo : lo ≤ i) : memOk d lo (memInsert m i v) = true := by
  induction m generalizing lo with
  | nil => simp [memInsert, memOk, hv, hlo]
  | cons c rest ih =>
    obtain ⟨k, e⟩ := c
    have hk : k ≠ i := hne (k, e) (by simp)
    rw [memOk_cons] at h
    by_cases hi : i < k
    · simp only [memInsert, hi, if_true, memOk_cons]
      exact ⟨hlo, hv, by omega, h.2⟩
    · simp only [memInsert, hi, if_false, memOk_cons]
      exact ⟨h.1, h.2.1, ih h.2.2 (fun c hc => hne c (by simp [hc])) (by omega)⟩

theorem memSet_ok (h : memOk d 0 m = true) : memOk d 0 (memSet d m i v) = true := by
  by_cases hv : v = d
  · simp only [memSet, hv, if_true]; exact memErase_ok h
  · simp only [memSet, hv, if_false]
    exact memInsert_ok (memErase_ok h) memErase_ne hv (Nat.zero_le _)

/-- Every write keeps the canonical form. -/
theorem memSetAll_wellFormed (h : Memory.WellFormed d m) : Memory.WellFormed d (memSetAll d m l) := by
  induction l generalizing m with
  | nil => exact h
  | cons c rest ih => exact ih (memSet_ok h)

theorem memErase_below (h : Memory.Below n m) : Memory.Below n (memErase m i) := by
  induction m with
  | nil => simp [memErase]
  | cons c rest ih =>
    obtain ⟨k, e⟩ := c
    have ih := ih (fun c hc => h c (by simp [hc]))
    by_cases hk : k = i
    · simpa [memErase, hk] using ih
    · simp only [memErase, hk, if_false]
      rintro c hc
      rcases List.mem_cons.1 hc with rfl | hc
      · exact h _ (by simp)
      · exact ih c hc

theorem memInsert_below (h : Memory.Below n m) (hi : i < n) : Memory.Below n (memInsert m i v) := by
  induction m with
  | nil => simpa [memInsert] using hi
  | cons c rest ih =>
    obtain ⟨k, e⟩ := c
    have ih := ih (fun c hc => h c (by simp [hc]))
    by_cases hk : i < k
    · simp only [memInsert, hk, if_true]
      rintro c hc
      rcases List.mem_cons.1 hc with rfl | hc
      · exact hi
      · exact h c hc
    · simp only [memInsert, hk, if_false]
      rintro c hc
      rcases List.mem_cons.1 hc with rfl | hc
      · exact h _ (by simp)
      · exact ih c hc

/-- Writes below `n` keep every listed index below `n`. -/
theorem memSetAll_below (h : Memory.Below n m) (hl : ∀ c ∈ l, c.1 < n) :
    Memory.Below n (memSetAll d m l) := by
  induction l generalizing m with
  | nil => exact h
  | cons c rest ih =>
    refine ih ?_ (fun c hc => hl c (by simp [hc]))
    have hc := hl c (by simp)
    unfold memSet
    split
    · exact memErase_below h
    · exact memInsert_below (memErase_below h) hc

/-- No index outside the array is listed, so it reads as the reset content. -/
theorem memGet_of_below (h : Memory.Below n m) (hi : n ≤ i) : memGet d m i = d := by
  induction m with
  | nil => rfl
  | cons c rest ih =>
    obtain ⟨k, e⟩ := c
    have hk : k < n := h (k, e) (by simp)
    have : i ≠ k := by omega
    simp only [memGet, this, if_false]
    exact ih (fun c hc => h c (by simp [hc]))

/-- Writes of values put no poison into an array. -/
theorem memSetAll_ne_poison (h : ∀ i, memGet d m i ≠ .poison) (hl : ∀ c ∈ l, c.2 ≠ .poison) (i : Nat) :
    memGet d (memSetAll d m l) i ≠ .poison := by
  induction l generalizing m with
  | nil => exact h i
  | cons c rest ih =>
    refine ih (fun j => ?_) (fun c hc => hl c (by simp [hc]))
    rw [memGet_memSet]
    split
    · exact hl c (by simp)
    · exact h j

/-- Two canonical contents that read alike are the same data. -/
theorem memory_ext {m' : Memory w} (h : Memory.WellFormed d m) (h' : Memory.WellFormed d m')
    (heq : ∀ i, memGet d m i = memGet d m' i) : m = m' := by
  suffices H : ∀ (lo : Nat) (m m' : Memory w), memOk d lo m = true → memOk d lo m' = true →
      (∀ i, memGet d m i = memGet d m' i) → m = m' from H 0 m m' h h' heq
  have absent : ∀ (m : Memory w) (lo i : Nat), memOk d lo m = true → i < lo → memGet d m i = d := by
    intro m
    induction m with
    | nil => intros; rfl
    | cons c rest ih =>
      obtain ⟨k, e⟩ := c
      intro lo i hm hi
      rw [memOk_cons] at hm
      have : i ≠ k := by omega
      simp only [memGet, this, if_false]
      exact ih (k + 1) i hm.2.2 (by omega)
  intro lo m
  induction m generalizing lo with
  | nil =>
    intro m' _ hm' heq
    cases m' with
    | nil => rfl
    | cons c rest =>
      obtain ⟨k, e⟩ := c
      rw [memOk_cons] at hm'
      exact absurd (by simpa [memGet] using (heq k).symm) hm'.2.1
  | cons c rest ih =>
    obtain ⟨k, e⟩ := c
    intro m' hm hm' heq
    have hm2 := memOk_cons.1 hm
    cases m' with
    | nil => exact absurd (by simpa [memGet] using heq k) hm2.2.1
    | cons c' rest' =>
      obtain ⟨k', e'⟩ := c'
      have hm2' := memOk_cons.1 hm'
      have hkk : k = k' := by
        rcases Nat.lt_trichotomy k k' with hlt | heq' | hgt
        · exact absurd ((by simpa [memGet] using heq k :
            e = memGet d ((k', e') :: rest') k).trans
            (absent _ k' k (memOk_cons.2 ⟨le_refl _, hm2'.2⟩) hlt)) hm2.2.1
        · exact heq'
        · exact absurd ((by simpa [memGet] using (heq k').symm :
            e' = memGet d ((k, e) :: rest) k').trans
            (absent _ k k' (memOk_cons.2 ⟨le_refl _, hm2.2⟩) hgt)) hm2'.2.1
      subst hkk
      have he : e = e' := by simpa [memGet] using heq k
      subst he
      congr 1
      refine ih (k + 1) rest' hm2.2.2 hm2'.2.2 (fun i => ?_)
      by_cases hi : i = k
      · subst hi
        rw [absent _ (i + 1) i hm2.2.2 (by omega), absent _ (i + 1) i hm2'.2.2 (by omega)]
      · simpa [memGet, hi] using heq i

end Sys2Proof.Machine
end

