-- ==== Sys2Proof/Laws/PerInstr.lean ====
section
/-! SUPPORT. The statements made of each instruction as syntax, one lemma per constructor. -/

namespace Sys2Proof.Laws

/-- The fixed bits of R88's row: `w & 0x0000F08F` of the encoded word is the mode code. -/
def FixedBits.Statement (i : Instr) : Prop := encode i &&& 0x0000F08F#32 = BitVec.ofNat 32 i.mode

/-- The fixed bits of the bit picture of R80, whatever the operands are. -/
theorem fixedBits_picture (mb : BitVec 16) (y x : BitVec 2) (r t l : Bool) (m : BitVec 4) :
    (mb ++ 0#4 ++ y ++ x ++ 0#1 ++ BitVec.ofBool r ++ BitVec.ofBool t ++ BitVec.ofBool l ++ m)
      &&& 0x0000F08F#32 = m.setWidth 32 := by
  ext i hi
  simp only [BitVec.getElem_and, BitVec.getElem_append, BitVec.getElem_setWidth]
  interval_cases i <;> simp [BitVec.getLsbD_of_ge, BitVec.getLsbD_eq_getElem]

theorem FixedBits.predV (o : Operands) : FixedBits.Statement (.predV o) := fixedBits_picture ..
theorem FixedBits.predH (o : Operands) : FixedBits.Statement (.predH o) := fixedBits_picture ..
theorem FixedBits.predDc (o : Operands) : FixedBits.Statement (.predDc o) := fixedBits_picture ..
theorem FixedBits.predDdl (o : Operands) : FixedBits.Statement (.predDdl o) := fixedBits_picture ..
theorem FixedBits.predDdr (o : Operands) : FixedBits.Statement (.predDdr o) := fixedBits_picture ..
theorem FixedBits.predVr (o : Operands) : FixedBits.Statement (.predVr o) := fixedBits_picture ..
theorem FixedBits.predHd (o : Operands) : FixedBits.Statement (.predHd o) := fixedBits_picture ..
theorem FixedBits.predVl (o : Operands) : FixedBits.Statement (.predVl o) := fixedBits_picture ..
theorem FixedBits.predHu (o : Operands) : FixedBits.Statement (.predHu o) := fixedBits_picture ..

end Sys2Proof.Laws
end

