-- ==== Sys2Proof/Laws/State.lean ====
section
/-! SUPPORT. What each update of State leaves in each field and in each array, each true by `rfl`,
so that no later proof unfolds a record update. -/

namespace Sys2Proof.Machine

variable (s : State)

@[simp] theorem State.setResid_params (l : List (Nat × Entry 32)) : (s.setResid l).params = s.params := rfl
@[simp] theorem State.setResid_resid (l : List (Nat × Entry 32)) : (s.setResid l).resid = memSetAll (residFill s.params) s.resid l := rfl
@[simp] theorem State.setResid_pixOut (l : List (Nat × Entry 32)) : (s.setResid l).pixOut = s.pixOut := rfl
@[simp] theorem State.setResid_leftRow (l : List (Nat × Entry 32)) : (s.setResid l).leftRow = s.leftRow := rfl
@[simp] theorem State.setResid_topLeft (l : List (Nat × Entry 32)) : (s.setResid l).topLeft = s.topLeft := rfl
@[simp] theorem State.setResid_topLine (l : List (Nat × Entry 32)) : (s.setResid l).topLine = s.topLine := rfl
@[simp] theorem State.setResid_cmd (l : List (Nat × Entry 32)) : (s.setResid l).cmd = s.cmd := rfl
@[simp] theorem State.setResid_status (l : List (Nat × Entry 32)) : (s.setResid l).status = s.status := rfl
@[simp] theorem State.setResid_draws (l : List (Nat × Entry 32)) : (s.setResid l).draws = s.draws := rfl
@[simp] theorem State.setResid_pending (l : List (Nat × Entry 32)) : (s.setResid l).pending = s.pending := rfl
@[simp] theorem State.setResid_resp (l : List (Nat × Entry 32)) : (s.setResid l).resp = s.resp := rfl
@[simp] theorem State.setResid_pixOutAt (l : List (Nat × Entry 32)) (i : Nat) : (s.setResid l).pixOutAt i = s.pixOutAt i := rfl
@[simp] theorem State.setResid_leftRowAt (l : List (Nat × Entry 32)) (i : Nat) : (s.setResid l).leftRowAt i = s.leftRowAt i := rfl
@[simp] theorem State.setResid_topLeftAt (l : List (Nat × Entry 32)) (i : Nat) : (s.setResid l).topLeftAt i = s.topLeftAt i := rfl
@[simp] theorem State.setResid_topLineAt (l : List (Nat × Entry 32)) (i : Nat) : (s.setResid l).topLineAt i = s.topLineAt i := rfl

@[simp] theorem State.setPixOut_params (l : List (Nat × Entry 8)) : (s.setPixOut l).params = s.params := rfl
@[simp] theorem State.setPixOut_resid (l : List (Nat × Entry 8)) : (s.setPixOut l).resid = s.resid := rfl
@[simp] theorem State.setPixOut_pixOut (l : List (Nat × Entry 8)) : (s.setPixOut l).pixOut = memSetAll (sampleFill s.params) s.pixOut l := rfl
@[simp] theorem State.setPixOut_leftRow (l : List (Nat × Entry 8)) : (s.setPixOut l).leftRow = s.leftRow := rfl
@[simp] theorem State.setPixOut_topLeft (l : List (Nat × Entry 8)) : (s.setPixOut l).topLeft = s.topLeft := rfl
@[simp] theorem State.setPixOut_topLine (l : List (Nat × Entry 8)) : (s.setPixOut l).topLine = s.topLine := rfl
@[simp] theorem State.setPixOut_cmd (l : List (Nat × Entry 8)) : (s.setPixOut l).cmd = s.cmd := rfl
@[simp] theorem State.setPixOut_status (l : List (Nat × Entry 8)) : (s.setPixOut l).status = s.status := rfl
@[simp] theorem State.setPixOut_draws (l : List (Nat × Entry 8)) : (s.setPixOut l).draws = s.draws := rfl
@[simp] theorem State.setPixOut_pending (l : List (Nat × Entry 8)) : (s.setPixOut l).pending = s.pending := rfl
@[simp] theorem State.setPixOut_resp (l : List (Nat × Entry 8)) : (s.setPixOut l).resp = s.resp := rfl
@[simp] theorem State.setPixOut_residAt (l : List (Nat × Entry 8)) (i : Nat) : (s.setPixOut l).residAt i = s.residAt i := rfl
@[simp] theorem State.setPixOut_leftRowAt (l : List (Nat × Entry 8)) (i : Nat) : (s.setPixOut l).leftRowAt i = s.leftRowAt i := rfl
@[simp] theorem State.setPixOut_topLeftAt (l : List (Nat × Entry 8)) (i : Nat) : (s.setPixOut l).topLeftAt i = s.topLeftAt i := rfl
@[simp] theorem State.setPixOut_topLineAt (l : List (Nat × Entry 8)) (i : Nat) : (s.setPixOut l).topLineAt i = s.topLineAt i := rfl

@[simp] theorem State.setLeftRow_params (l : List (Nat × Entry 8)) : (s.setLeftRow l).params = s.params := rfl
@[simp] theorem State.setLeftRow_resid (l : List (Nat × Entry 8)) : (s.setLeftRow l).resid = s.resid := rfl
@[simp] theorem State.setLeftRow_pixOut (l : List (Nat × Entry 8)) : (s.setLeftRow l).pixOut = s.pixOut := rfl
@[simp] theorem State.setLeftRow_leftRow (l : List (Nat × Entry 8)) : (s.setLeftRow l).leftRow = memSetAll (sampleFill s.params) s.leftRow l := rfl
@[simp] theorem State.setLeftRow_topLeft (l : List (Nat × Entry 8)) : (s.setLeftRow l).topLeft = s.topLeft := rfl
@[simp] theorem State.setLeftRow_topLine (l : List (Nat × Entry 8)) : (s.setLeftRow l).topLine = s.topLine := rfl
@[simp] theorem State.setLeftRow_cmd (l : List (Nat × Entry 8)) : (s.setLeftRow l).cmd = s.cmd := rfl
@[simp] theorem State.setLeftRow_status (l : List (Nat × Entry 8)) : (s.setLeftRow l).status = s.status := rfl
@[simp] theorem State.setLeftRow_draws (l : List (Nat × Entry 8)) : (s.setLeftRow l).draws = s.draws := rfl
@[simp] theorem State.setLeftRow_pending (l : List (Nat × Entry 8)) : (s.setLeftRow l).pending = s.pending := rfl
@[simp] theorem State.setLeftRow_resp (l : List (Nat × Entry 8)) : (s.setLeftRow l).resp = s.resp := rfl
@[simp] theorem State.setLeftRow_residAt (l : List (Nat × Entry 8)) (i : Nat) : (s.setLeftRow l).residAt i = s.residAt i := rfl
@[simp] theorem State.setLeftRow_pixOutAt (l : List (Nat × Entry 8)) (i : Nat) : (s.setLeftRow l).pixOutAt i = s.pixOutAt i := rfl
@[simp] theorem State.setLeftRow_topLeftAt (l : List (Nat × Entry 8)) (i : Nat) : (s.setLeftRow l).topLeftAt i = s.topLeftAt i := rfl
@[simp] theorem State.setLeftRow_topLineAt (l : List (Nat × Entry 8)) (i : Nat) : (s.setLeftRow l).topLineAt i = s.topLineAt i := rfl

@[simp] theorem State.setTopLeft_params (l : List (Nat × Entry 8)) : (s.setTopLeft l).params = s.params := rfl
@[simp] theorem State.setTopLeft_resid (l : List (Nat × Entry 8)) : (s.setTopLeft l).resid = s.resid := rfl
@[simp] theorem State.setTopLeft_pixOut (l : List (Nat × Entry 8)) : (s.setTopLeft l).pixOut = s.pixOut := rfl
@[simp] theorem State.setTopLeft_leftRow (l : List (Nat × Entry 8)) : (s.setTopLeft l).leftRow = s.leftRow := rfl
@[simp] theorem State.setTopLeft_topLeft (l : List (Nat × Entry 8)) : (s.setTopLeft l).topLeft = memSetAll (sampleFill s.params) s.topLeft l := rfl
@[simp] theorem State.setTopLeft_topLine (l : List (Nat × Entry 8)) : (s.setTopLeft l).topLine = s.topLine := rfl
@[simp] theorem State.setTopLeft_cmd (l : List (Nat × Entry 8)) : (s.setTopLeft l).cmd = s.cmd := rfl
@[simp] theorem State.setTopLeft_status (l : List (Nat × Entry 8)) : (s.setTopLeft l).status = s.status := rfl
@[simp] theorem State.setTopLeft_draws (l : List (Nat × Entry 8)) : (s.setTopLeft l).draws = s.draws := rfl
@[simp] theorem State.setTopLeft_pending (l : List (Nat × Entry 8)) : (s.setTopLeft l).pending = s.pending := rfl
@[simp] theorem State.setTopLeft_resp (l : List (Nat × Entry 8)) : (s.setTopLeft l).resp = s.resp := rfl
@[simp] theorem State.setTopLeft_residAt (l : List (Nat × Entry 8)) (i : Nat) : (s.setTopLeft l).residAt i = s.residAt i := rfl
@[simp] theorem State.setTopLeft_pixOutAt (l : List (Nat × Entry 8)) (i : Nat) : (s.setTopLeft l).pixOutAt i = s.pixOutAt i := rfl
@[simp] theorem State.setTopLeft_leftRowAt (l : List (Nat × Entry 8)) (i : Nat) : (s.setTopLeft l).leftRowAt i = s.leftRowAt i := rfl
@[simp] theorem State.setTopLeft_topLineAt (l : List (Nat × Entry 8)) (i : Nat) : (s.setTopLeft l).topLineAt i = s.topLineAt i := rfl

@[simp] theorem State.setTopLine_params (l : List (Nat × Entry 8)) : (s.setTopLine l).params = s.params := rfl
@[simp] theorem State.setTopLine_resid (l : List (Nat × Entry 8)) : (s.setTopLine l).resid = s.resid := rfl
@[simp] theorem State.setTopLine_pixOut (l : List (Nat × Entry 8)) : (s.setTopLine l).pixOut = s.pixOut := rfl
@[simp] theorem State.setTopLine_leftRow (l : List (Nat × Entry 8)) : (s.setTopLine l).leftRow = s.leftRow := rfl
@[simp] theorem State.setTopLine_topLeft (l : List (Nat × Entry 8)) : (s.setTopLine l).topLeft = s.topLeft := rfl
@[simp] theorem State.setTopLine_topLine (l : List (Nat × Entry 8)) : (s.setTopLine l).topLine = memSetAll (sampleFill s.params) s.topLine l := rfl
@[simp] theorem State.setTopLine_cmd (l : List (Nat × Entry 8)) : (s.setTopLine l).cmd = s.cmd := rfl
@[simp] theorem State.setTopLine_status (l : List (Nat × Entry 8)) : (s.setTopLine l).status = s.status := rfl
@[simp] theorem State.setTopLine_draws (l : List (Nat × Entry 8)) : (s.setTopLine l).draws = s.draws := rfl
@[simp] theorem State.setTopLine_pending (l : List (Nat × Entry 8)) : (s.setTopLine l).pending = s.pending := rfl
@[simp] theorem State.setTopLine_resp (l : List (Nat × Entry 8)) : (s.setTopLine l).resp = s.resp := rfl
@[simp] theorem State.setTopLine_residAt (l : List (Nat × Entry 8)) (i : Nat) : (s.setTopLine l).residAt i = s.residAt i := rfl
@[simp] theorem State.setTopLine_pixOutAt (l : List (Nat × Entry 8)) (i : Nat) : (s.setTopLine l).pixOutAt i = s.pixOutAt i := rfl
@[simp] theorem State.setTopLine_leftRowAt (l : List (Nat × Entry 8)) (i : Nat) : (s.setTopLine l).leftRowAt i = s.leftRowAt i := rfl
@[simp] theorem State.setTopLine_topLeftAt (l : List (Nat × Entry 8)) (i : Nat) : (s.setTopLine l).topLeftAt i = s.topLeftAt i := rfl

@[simp] theorem State.setCmd_params (w : Word) : (s.setCmd w).params = s.params := rfl
@[simp] theorem State.setCmd_resid (w : Word) : (s.setCmd w).resid = s.resid := rfl
@[simp] theorem State.setCmd_pixOut (w : Word) : (s.setCmd w).pixOut = s.pixOut := rfl
@[simp] theorem State.setCmd_leftRow (w : Word) : (s.setCmd w).leftRow = s.leftRow := rfl
@[simp] theorem State.setCmd_topLeft (w : Word) : (s.setCmd w).topLeft = s.topLeft := rfl
@[simp] theorem State.setCmd_topLine (w : Word) : (s.setCmd w).topLine = s.topLine := rfl
@[simp] theorem State.setCmd_cmd (w : Word) : (s.setCmd w).cmd = w := rfl
@[simp] theorem State.setCmd_status (w : Word) : (s.setCmd w).status = s.status := rfl
@[simp] theorem State.setCmd_draws (w : Word) : (s.setCmd w).draws = s.draws := rfl
@[simp] theorem State.setCmd_pending (w : Word) : (s.setCmd w).pending = s.pending := rfl
@[simp] theorem State.setCmd_resp (w : Word) : (s.setCmd w).resp = s.resp := rfl
@[simp] theorem State.setCmd_residAt (w : Word) (i : Nat) : (s.setCmd w).residAt i = s.residAt i := rfl
@[simp] theorem State.setCmd_pixOutAt (w : Word) (i : Nat) : (s.setCmd w).pixOutAt i = s.pixOutAt i := rfl
@[simp] theorem State.setCmd_leftRowAt (w : Word) (i : Nat) : (s.setCmd w).leftRowAt i = s.leftRowAt i := rfl
@[simp] theorem State.setCmd_topLeftAt (w : Word) (i : Nat) : (s.setCmd w).topLeftAt i = s.topLeftAt i := rfl
@[simp] theorem State.setCmd_topLineAt (w : Word) (i : Nat) : (s.setCmd w).topLineAt i = s.topLineAt i := rfl

@[simp] theorem State.setStatus_params (st : Status) : (s.setStatus st).params = s.params := rfl
@[simp] theorem State.setStatus_resid (st : Status) : (s.setStatus st).resid = s.resid := rfl
@[simp] theorem State.setStatus_pixOut (st : Status) : (s.setStatus st).pixOut = s.pixOut := rfl
@[simp] theorem State.setStatus_leftRow (st : Status) : (s.setStatus st).leftRow = s.leftRow := rfl
@[simp] theorem State.setStatus_topLeft (st : Status) : (s.setStatus st).topLeft = s.topLeft := rfl
@[simp] theorem State.setStatus_topLine (st : Status) : (s.setStatus st).topLine = s.topLine := rfl
@[simp] theorem State.setStatus_cmd (st : Status) : (s.setStatus st).cmd = s.cmd := rfl
@[simp] theorem State.setStatus_status (st : Status) : (s.setStatus st).status = st := rfl
@[simp] theorem State.setStatus_draws (st : Status) : (s.setStatus st).draws = s.draws := rfl
@[simp] theorem State.setStatus_pending (st : Status) : (s.setStatus st).pending = s.pending := rfl
@[simp] theorem State.setStatus_resp (st : Status) : (s.setStatus st).resp = s.resp := rfl
@[simp] theorem State.setStatus_residAt (st : Status) (i : Nat) : (s.setStatus st).residAt i = s.residAt i := rfl
@[simp] theorem State.setStatus_pixOutAt (st : Status) (i : Nat) : (s.setStatus st).pixOutAt i = s.pixOutAt i := rfl
@[simp] theorem State.setStatus_leftRowAt (st : Status) (i : Nat) : (s.setStatus st).leftRowAt i = s.leftRowAt i := rfl
@[simp] theorem State.setStatus_topLeftAt (st : Status) (i : Nat) : (s.setStatus st).topLeftAt i = s.topLeftAt i := rfl
@[simp] theorem State.setStatus_topLineAt (st : Status) (i : Nat) : (s.setStatus st).topLineAt i = s.topLineAt i := rfl

@[simp] theorem State.nextDraw_params : (s.nextDraw).params = s.params := rfl
@[simp] theorem State.nextDraw_resid : (s.nextDraw).resid = s.resid := rfl
@[simp] theorem State.nextDraw_pixOut : (s.nextDraw).pixOut = s.pixOut := rfl
@[simp] theorem State.nextDraw_leftRow : (s.nextDraw).leftRow = s.leftRow := rfl
@[simp] theorem State.nextDraw_topLeft : (s.nextDraw).topLeft = s.topLeft := rfl
@[simp] theorem State.nextDraw_topLine : (s.nextDraw).topLine = s.topLine := rfl
@[simp] theorem State.nextDraw_cmd : (s.nextDraw).cmd = s.cmd := rfl
@[simp] theorem State.nextDraw_status : (s.nextDraw).status = s.status := rfl
@[simp] theorem State.nextDraw_draws : (s.nextDraw).draws = s.draws + 1 := rfl
@[simp] theorem State.nextDraw_pending : (s.nextDraw).pending = s.pending := rfl
@[simp] theorem State.nextDraw_resp : (s.nextDraw).resp = s.resp := rfl
@[simp] theorem State.nextDraw_residAt (i : Nat) : (s.nextDraw).residAt i = s.residAt i := rfl
@[simp] theorem State.nextDraw_pixOutAt (i : Nat) : (s.nextDraw).pixOutAt i = s.pixOutAt i := rfl
@[simp] theorem State.nextDraw_leftRowAt (i : Nat) : (s.nextDraw).leftRowAt i = s.leftRowAt i := rfl
@[simp] theorem State.nextDraw_topLeftAt (i : Nat) : (s.nextDraw).topLeftAt i = s.topLeftAt i := rfl
@[simp] theorem State.nextDraw_topLineAt (i : Nat) : (s.nextDraw).topLineAt i = s.topLineAt i := rfl

@[simp] theorem State.answer_params (r : Response) : (s.answer r).params = s.params := rfl
@[simp] theorem State.answer_resid (r : Response) : (s.answer r).resid = s.resid := rfl
@[simp] theorem State.answer_pixOut (r : Response) : (s.answer r).pixOut = s.pixOut := rfl
@[simp] theorem State.answer_leftRow (r : Response) : (s.answer r).leftRow = s.leftRow := rfl
@[simp] theorem State.answer_topLeft (r : Response) : (s.answer r).topLeft = s.topLeft := rfl
@[simp] theorem State.answer_topLine (r : Response) : (s.answer r).topLine = s.topLine := rfl
@[simp] theorem State.answer_cmd (r : Response) : (s.answer r).cmd = s.cmd := rfl
@[simp] theorem State.answer_status (r : Response) : (s.answer r).status = s.status := rfl
@[simp] theorem State.answer_draws (r : Response) : (s.answer r).draws = s.draws := rfl
@[simp] theorem State.answer_pending (r : Response) : (s.answer r).pending = s.pending := rfl
@[simp] theorem State.answer_resp (r : Response) : (s.answer r).resp = some r := rfl
@[simp] theorem State.answer_residAt (r : Response) (i : Nat) : (s.answer r).residAt i = s.residAt i := rfl
@[simp] theorem State.answer_pixOutAt (r : Response) (i : Nat) : (s.answer r).pixOutAt i = s.pixOutAt i := rfl
@[simp] theorem State.answer_leftRowAt (r : Response) (i : Nat) : (s.answer r).leftRowAt i = s.leftRowAt i := rfl
@[simp] theorem State.answer_topLeftAt (r : Response) (i : Nat) : (s.answer r).topLeftAt i = s.topLeftAt i := rfl
@[simp] theorem State.answer_topLineAt (r : Response) (i : Nat) : (s.answer r).topLineAt i = s.topLineAt i := rfl

@[simp] theorem State.setPending_params (l : List HostEvent) : (s.setPending l).params = s.params := rfl
@[simp] theorem State.setPending_resid (l : List HostEvent) : (s.setPending l).resid = s.resid := rfl
@[simp] theorem State.setPending_pixOut (l : List HostEvent) : (s.setPending l).pixOut = s.pixOut := rfl
@[simp] theorem State.setPending_leftRow (l : List HostEvent) : (s.setPending l).leftRow = s.leftRow := rfl
@[simp] theorem State.setPending_topLeft (l : List HostEvent) : (s.setPending l).topLeft = s.topLeft := rfl
@[simp] theorem State.setPending_topLine (l : List HostEvent) : (s.setPending l).topLine = s.topLine := rfl
@[simp] theorem State.setPending_cmd (l : List HostEvent) : (s.setPending l).cmd = s.cmd := rfl
@[simp] theorem State.setPending_status (l : List HostEvent) : (s.setPending l).status = s.status := rfl
@[simp] theorem State.setPending_draws (l : List HostEvent) : (s.setPending l).draws = s.draws := rfl
@[simp] theorem State.setPending_pending (l : List HostEvent) : (s.setPending l).pending = l := rfl
@[simp] theorem State.setPending_resp (l : List HostEvent) : (s.setPending l).resp = s.resp := rfl
@[simp] theorem State.setPending_residAt (l : List HostEvent) (i : Nat) : (s.setPending l).residAt i = s.residAt i := rfl
@[simp] theorem State.setPending_pixOutAt (l : List HostEvent) (i : Nat) : (s.setPending l).pixOutAt i = s.pixOutAt i := rfl
@[simp] theorem State.setPending_leftRowAt (l : List HostEvent) (i : Nat) : (s.setPending l).leftRowAt i = s.leftRowAt i := rfl
@[simp] theorem State.setPending_topLeftAt (l : List HostEvent) (i : Nat) : (s.setPending l).topLeftAt i = s.topLeftAt i := rfl
@[simp] theorem State.setPending_topLineAt (l : List HostEvent) (i : Nat) : (s.setPending l).topLineAt i = s.topLineAt i := rfl

@[simp] theorem State.reject_params (c : BitVec 4) : (s.reject c).params = s.params := rfl
@[simp] theorem State.reject_resid (c : BitVec 4) : (s.reject c).resid = s.resid := rfl
@[simp] theorem State.reject_pixOut (c : BitVec 4) : (s.reject c).pixOut = s.pixOut := rfl
@[simp] theorem State.reject_leftRow (c : BitVec 4) : (s.reject c).leftRow = s.leftRow := rfl
@[simp] theorem State.reject_topLeft (c : BitVec 4) : (s.reject c).topLeft = s.topLeft := rfl
@[simp] theorem State.reject_topLine (c : BitVec 4) : (s.reject c).topLine = s.topLine := rfl
@[simp] theorem State.reject_cmd (c : BitVec 4) : (s.reject c).cmd = s.cmd := rfl
@[simp] theorem State.reject_status (c : BitVec 4) : (s.reject c).status = statusReject c s.status := rfl
@[simp] theorem State.reject_draws (c : BitVec 4) : (s.reject c).draws = s.draws := rfl
@[simp] theorem State.reject_pending (c : BitVec 4) : (s.reject c).pending = s.pending := rfl
@[simp] theorem State.reject_resp (c : BitVec 4) : (s.reject c).resp = s.resp := rfl
@[simp] theorem State.reject_residAt (c : BitVec 4) (i : Nat) : (s.reject c).residAt i = s.residAt i := rfl
@[simp] theorem State.reject_pixOutAt (c : BitVec 4) (i : Nat) : (s.reject c).pixOutAt i = s.pixOutAt i := rfl
@[simp] theorem State.reject_leftRowAt (c : BitVec 4) (i : Nat) : (s.reject c).leftRowAt i = s.leftRowAt i := rfl
@[simp] theorem State.reject_topLeftAt (c : BitVec 4) (i : Nat) : (s.reject c).topLeftAt i = s.topLeftAt i := rfl
@[simp] theorem State.reject_topLineAt (c : BitVec 4) (i : Nat) : (s.reject c).topLineAt i = s.topLineAt i := rfl

@[simp] theorem State.busError_params (b : Bool) : (s.busError b).params = s.params := rfl
@[simp] theorem State.busError_resid (b : Bool) : (s.busError b).resid = s.resid := rfl
@[simp] theorem State.busError_pixOut (b : Bool) : (s.busError b).pixOut = s.pixOut := rfl
@[simp] theorem State.busError_leftRow (b : Bool) : (s.busError b).leftRow = s.leftRow := rfl
@[simp] theorem State.busError_topLeft (b : Bool) : (s.busError b).topLeft = s.topLeft := rfl
@[simp] theorem State.busError_topLine (b : Bool) : (s.busError b).topLine = s.topLine := rfl
@[simp] theorem State.busError_cmd (b : Bool) : (s.busError b).cmd = s.cmd := rfl
@[simp] theorem State.busError_status (b : Bool) : (s.busError b).status = statusBusError s.status := rfl
@[simp] theorem State.busError_draws (b : Bool) : (s.busError b).draws = s.draws := rfl
@[simp] theorem State.busError_pending (b : Bool) : (s.busError b).pending = s.pending := rfl
@[simp] theorem State.busError_resp (b : Bool) : (s.busError b).resp = some { error := true, data := if b then some 0 else none } := rfl
@[simp] theorem State.busError_residAt (b : Bool) (i : Nat) : (s.busError b).residAt i = s.residAt i := rfl
@[simp] theorem State.busError_pixOutAt (b : Bool) (i : Nat) : (s.busError b).pixOutAt i = s.pixOutAt i := rfl
@[simp] theorem State.busError_leftRowAt (b : Bool) (i : Nat) : (s.busError b).leftRowAt i = s.leftRowAt i := rfl
@[simp] theorem State.busError_topLeftAt (b : Bool) (i : Nat) : (s.busError b).topLeftAt i = s.topLeftAt i := rfl
@[simp] theorem State.busError_topLineAt (b : Bool) (i : Nat) : (s.busError b).topLineAt i = s.topLineAt i := rfl

@[simp] theorem State.resetEvent_params : (s.resetEvent).params = s.params := rfl
@[simp] theorem State.resetEvent_resid : (s.resetEvent).resid = [] := rfl
@[simp] theorem State.resetEvent_pixOut : (s.resetEvent).pixOut = [] := rfl
@[simp] theorem State.resetEvent_leftRow : (s.resetEvent).leftRow = [] := rfl
@[simp] theorem State.resetEvent_topLeft : (s.resetEvent).topLeft = [] := rfl
@[simp] theorem State.resetEvent_topLine : (s.resetEvent).topLine = [] := rfl
@[simp] theorem State.resetEvent_cmd : (s.resetEvent).cmd = 0 := rfl
@[simp] theorem State.resetEvent_status : (s.resetEvent).status = { lastErr := 0, errSticky := false, busErrSticky := false } := rfl
@[simp] theorem State.resetEvent_draws : (s.resetEvent).draws = s.draws + 1 := rfl
@[simp] theorem State.resetEvent_pending : (s.resetEvent).pending = s.pending := rfl
@[simp] theorem State.resetEvent_resp : (s.resetEvent).resp = none := rfl
@[simp] theorem State.resetEvent_residAt (i : Nat) : (s.resetEvent).residAt i = residFill s.params := rfl
@[simp] theorem State.resetEvent_pixOutAt (i : Nat) : (s.resetEvent).pixOutAt i = sampleFill s.params := rfl
@[simp] theorem State.resetEvent_leftRowAt (i : Nat) : (s.resetEvent).leftRowAt i = sampleFill s.params := rfl
@[simp] theorem State.resetEvent_topLeftAt (i : Nat) : (s.resetEvent).topLeftAt i = sampleFill s.params := rfl
@[simp] theorem State.resetEvent_topLineAt (i : Nat) : (s.resetEvent).topLineAt i = sampleFill s.params := rfl

end Sys2Proof.Machine
end

