-- ==== Sys2Proof/Laws/Pipeline.lean ====
section
/-! SUPPORT. What an accepted command leaves, one lemma per field and per array, and what a command
can answer.  Later proofs cite these and do not unfold the pipeline. -/

namespace Sys2Proof.Machine

variable (k : Kernel) (o : Operands) (s : State)

@[simp] theorem acceptCommand_params : (acceptCommand k o s).params = s.params := rfl
@[simp] theorem acceptCommand_resid : (acceptCommand k o s).resid = s.resid := rfl
@[simp] theorem acceptCommand_cmd : (acceptCommand k o s).cmd = s.cmd := rfl
@[simp] theorem acceptCommand_status : (acceptCommand k o s).status = statusAccept s.status := rfl
@[simp] theorem acceptCommand_draws : (acceptCommand k o s).draws = s.draws + 1 := rfl
@[simp] theorem acceptCommand_pending : (acceptCommand k o s).pending = s.pending := rfl
@[simp] theorem acceptCommand_resp : (acceptCommand k o s).resp = s.resp := rfl
@[simp] theorem acceptCommand_residAt (i : Nat) : (acceptCommand k o s).residAt i = s.residAt i := rfl

theorem acceptCommand_pixOut : (acceptCommand k o s).pixOut =
    memSetAll (sampleFill s.params) s.pixOut (pixWrites k o s) := rfl
theorem acceptCommand_leftRow : (acceptCommand k o s).leftRow =
    memSetAll (sampleFill s.params) s.leftRow (leftWrites k o s) := rfl
theorem acceptCommand_topLeft : (acceptCommand k o s).topLeft =
    memSetAll (sampleFill s.params) s.topLeft (cornerWrites k o s) := rfl
theorem acceptCommand_topLine : (acceptCommand k o s).topLine =
    memSetAll (sampleFill s.params) s.topLine (topWrites k o s) := rfl

/-- The 16 indices of a block are distinct. -/
theorem pixIndex_inj {x y x' y' : Nat} (hx : x < 4) (hx' : x' < 4)
    (h : pixIndex o x y = pixIndex o x' y') : x = x' ∧ y = y' := by
  unfold pixIndex at h; omega

theorem mem_pixWrites {i : Nat} {e : Entry 8} : (i, e) ∈ pixWrites k o s ↔
    ∃ x y, x < 4 ∧ y < 4 ∧ i = pixIndex o x y ∧ e = outEntry k o s x y := by
  constructor
  · intro h
    simp only [pixWrites, List.mem_cons, List.not_mem_nil, or_false, Prod.mk.injEq] at h
    rcases h with h | h | h | h | h | h | h | h | h | h | h | h | h | h | h | h <;>
      exact ⟨_, _, by decide, by decide, h.1, h.2⟩
  · rintro ⟨x, y, hx, hy, rfl, rfl⟩
    simp only [pixWrites, List.mem_cons, List.not_mem_nil, or_false, Prod.mk.injEq]
    interval_cases y <;> interval_cases x <;> simp

theorem mem_leftWrites {i : Nat} {e : Entry 8} : (i, e) ∈ leftWrites k o s ↔
    ∃ y, y < 4 ∧ i = o.blkY + y ∧ e = outEntry k o s 3 y := by
  constructor
  · intro h
    simp only [leftWrites, List.mem_cons, List.not_mem_nil, or_false, Prod.mk.injEq] at h
    rcases h with h | h | h | h
    · exact ⟨0, by decide, h.1, h.2⟩
    · exact ⟨1, by decide, h.1, h.2⟩
    · exact ⟨2, by decide, h.1, h.2⟩
    · exact ⟨3, by decide, h.1, h.2⟩
  · rintro ⟨y, hy, rfl, rfl⟩
    simp only [leftWrites, List.mem_cons, List.not_mem_nil, or_false, Prod.mk.injEq]
    interval_cases y <;> simp

theorem mem_topWrites {i : Nat} {e : Entry 8} : (i, e) ∈ topWrites k o s ↔
    ∃ x, x < 4 ∧ i = topIndex o + x ∧ e = outEntry k o s x 3 := by
  constructor
  · intro h
    simp only [topWrites, List.mem_cons, List.not_mem_nil, or_false, Prod.mk.injEq] at h
    rcases h with h | h | h | h
    · exact ⟨0, by decide, h.1, h.2⟩
    · exact ⟨1, by decide, h.1, h.2⟩
    · exact ⟨2, by decide, h.1, h.2⟩
    · exact ⟨3, by decide, h.1, h.2⟩
  · rintro ⟨x, hx, rfl, rfl⟩
    simp only [topWrites, List.mem_cons, List.not_mem_nil, or_false, Prod.mk.injEq]
    interval_cases x <;> simp

theorem pixWrites_distinct : (pixWrites k o s).Pairwise (fun a b => a.1 ≠ b.1) := by
  simp [pixWrites, pixIndex]
  omega

theorem leftWrites_distinct : (leftWrites k o s).Pairwise (fun a b => a.1 ≠ b.1) := by
  simp [leftWrites]

theorem topWrites_distinct : (topWrites k o s).Pairwise (fun a b => a.1 ≠ b.1) := by
  simp [topWrites]

/-- R107: the block's entries of the output plane. -/
theorem acceptCommand_pixOutAt {x y : Nat} (hx : x < 4) (hy : y < 4) :
    (acceptCommand k o s).pixOutAt (pixIndex o x y) = outEntry k o s x y :=
  memGet_memSetAll_of_mem (pixWrites_distinct k o s)
    ((mem_pixWrites k o s).2 ⟨x, y, hx, hy, rfl, rfl⟩)

/-- R107: no other entry of the output plane changes. -/
theorem acceptCommand_pixOutAt_of_ne {i : Nat}
    (h : ∀ x y, x < 4 → y < 4 → i ≠ pixIndex o x y) :
    (acceptCommand k o s).pixOutAt i = s.pixOutAt i :=
  memGet_memSetAll_of_not_mem fun c hc => by
    obtain ⟨x, y, hx, hy, hi, -⟩ := (mem_pixWrites k o s).1 hc
    exact fun heq => h x y hx hy (heq ▸ hi)

/-- R109: the left update. -/
theorem acceptCommand_leftRowAt {y : Nat} (hy : y < 4) :
    (acceptCommand k o s).leftRowAt (o.blkY + y) = outEntry k o s 3 y :=
  memGet_memSetAll_of_mem (leftWrites_distinct k o s) ((mem_leftWrites k o s).2 ⟨y, hy, rfl, rfl⟩)

/-- R109, R111: no other entry of the left cache changes. -/
theorem acceptCommand_leftRowAt_of_ne {i : Nat} (h : ∀ y, y < 4 → i ≠ o.blkY + y) :
    (acceptCommand k o s).leftRowAt i = s.leftRowAt i :=
  memGet_memSetAll_of_not_mem fun c hc => by
    obtain ⟨y, hy, hi, -⟩ := (mem_leftWrites k o s).1 hc
    exact fun heq => h y hy (heq ▸ hi)

/-- R110: the top update. -/
theorem acceptCommand_topLineAt {x : Nat} (hx : x < 4) :
    (acceptCommand k o s).topLineAt (topIndex o + x) = outEntry k o s x 3 :=
  memGet_memSetAll_of_mem (topWrites_distinct k o s) ((mem_topWrites k o s).2 ⟨x, hx, rfl, rfl⟩)

/-- R110, R111: no other entry of the top cache changes. -/
theorem acceptCommand_topLineAt_of_ne {i : Nat} (h : ∀ x, x < 4 → i ≠ topIndex o + x) :
    (acceptCommand k o s).topLineAt i = s.topLineAt i :=
  memGet_memSetAll_of_not_mem fun c hc => by
    obtain ⟨x, hx, hi, -⟩ := (mem_topWrites k o s).1 hc
    exact fun heq => h x hx (heq ▸ hi)

/-- R108: the corner update. -/
theorem acceptCommand_topLeftAt :
    (acceptCommand k o s).topLeftAt (band o) = cornerEntry k o s := by
  show memGet (sampleFill s.params) (memSetAll _ s.topLeft _) _ = _
  simp [cornerWrites, memSetAll, memGet_memSet]

/-- R108, R111: no other entry of the corner cache changes. -/
theorem acceptCommand_topLeftAt_of_ne {i : Nat} (h : i ≠ band o) :
    (acceptCommand k o s).topLeftAt i = s.topLeftAt i := by
  refine memGet_memSetAll_of_not_mem fun c hc => ?_
  simp only [cornerWrites, List.mem_singleton] at hc
  exact hc ▸ Ne.symm h

theorem predict_of_inRange (h : topIndex o + k.topReach o < s.params.tlLen) :
    predict k o s = .next (acceptCommand k o s) := by
  simp [predict, inRange, h]

theorem predict_of_not_inRange (h : ¬ topIndex o + k.topReach o < s.params.tlLen) :
    predict k o s = .next (s.reject errRange) := by
  simp [predict, inRange, h]

/-- All a command can answer: it is accepted, or rejected with `ERR_RANGE`; it never stops. -/
theorem predict_cases {r : Host.Outcome State Fault Refusal} (h : predict k o s = r) :
    (topIndex o + k.topReach o < s.params.tlLen ∧ r = .next (acceptCommand k o s)) ∨
    (¬ topIndex o + k.topReach o < s.params.tlLen ∧ r = .next (s.reject errRange)) := by
  subst h
  by_cases hr : topIndex o + k.topReach o < s.params.tlLen
  · exact .inl ⟨hr, predict_of_inRange k o s hr⟩
  · exact .inr ⟨hr, predict_of_not_inRange k o s hr⟩

/-! ### The output entries -/

theorem readsPoison_eq_false : readsPoison k o s = false ↔
    (∀ c ∈ k.reads o, neighbourEntry o s c ≠ .poison) ∧ ∀ i < 16, s.residAt i ≠ .poison := by
  simp [readsPoison]

/-- R33: a command that reads poison writes poison. -/
theorem outEntry_of_poison (h : readsPoison k o s = true) (x y : Nat) :
    outEntry k o s x y = .poison := by
  simp [outEntry, h]

/-- R33: a command that reads poison poisons its corner entry. -/
theorem cornerEntry_of_poison (h : readsPoison k o s = true) : cornerEntry k o s = .poison := by
  simp [cornerEntry, h]

/-- R108: the corner entry of a command that reads only values. -/
theorem cornerEntry_of_values (h : readsPoison k o s = false) :
    cornerEntry k o s = s.topLineAt (topIndex o + 3) := by
  simp [cornerEntry, h]

/-- The corner entry is the old top-right sample or poison. -/
theorem cornerEntry_cases : cornerEntry k o s = s.topLineAt (topIndex o + 3) ∨
    cornerEntry k o s = .poison := by
  unfold cornerEntry; split <;> simp

/-- R106: the entry written by a command that reads only values and draws none. -/
theorem outEntry_of_values (h : readsPoison k o s = false) (hd : drawsOutputs k o s = false)
    (x y : Nat) : outEntry k o s x y = sampleEntry (reconstruct k o s x y) := by
  simp [outEntry, h, hd]

/-! ### The dispatcher -/

/-- The kernel a command runs (R101). -/
def kernelOf : Instr → Kernel
  | .predV _ => kernelV
  | .predH _ => kernelH
  | .predDc _ => kernelDc
  | .predDdl _ => kernelDdl
  | .predDdr _ => kernelDdr
  | .predVr _ => kernelVr
  | .predHd _ => kernelHd
  | .predVl _ => kernelVl
  | .predHu _ => kernelHu

/-- The corner and the top update reach `TOPLINE[to + 3]` in every mode (R108, R110). -/
theorem three_le_topReach (i : Instr) : 3 ≤ (kernelOf i).topReach i.operands := by
  cases i <;> simp [kernelOf, kernelV, kernelH, kernelDc, kernelDdl, kernelDdr, kernelVr, kernelHd,
    kernelVl, kernelHu] <;> split <;> omega

/-- R101: exactly one kernel runs, chosen by the mode. -/
theorem exec_eq_predict (i : Instr) (s : State) :
    exec i s = predict (kernelOf i) i.operands s := by
  cases i <;> rfl

end Sys2Proof.Machine
end

