-- ==== Sys2Proof/Laws/Window.lean ====
section
/-! SUPPORT. What a host event and a step answer, one lemma per shape of event. -/

namespace Sys2Proof.Machine

variable {s : State} {rest : List HostEvent} {p : Params}

/-- R2: with nothing pending the state stays. -/
theorem step_of_idle (h : s.pending = []) : step s = .next s := by
  simp [step, runPending, h]

/-- R64, R65: a step is the first pending event. -/
theorem step_of_pending {e : HostEvent} (h : s.pending = e :: rest) :
    step s = hostEvent e (s.setPending rest) := by
  simp [step, runPending, h]

theorem inWindow_iff {addr : Nat} :
    inWindow p addr = true ↔ p.base ≤ addr ∧ addr < p.base + 2 ^ 19 := by
  unfold inWindow
  rw [Bool.and_eq_true, decide_eq_true_iff, decide_eq_true_iff]
  rfl

/-- R54: a read of a mapped slot answers its word and changes nothing else. -/
theorem hostRead_of_slot {addr size : Nat} {k : Slot} (hw : inWindow s.params addr = true)
    (hk : accessSlot s.params (addr - s.params.base) size = some k) :
    hostRead addr size s = .next (s.answer { error := false, data := some (readSlot s k) }) := by
  simp [hostRead, hw, hk]

/-- R53: a read that reaches no slot is a bus error. -/
theorem hostRead_of_none {addr size : Nat} (hw : inWindow s.params addr = true)
    (hk : accessSlot s.params (addr - s.params.base) size = none) :
    hostRead addr size s = .next (s.busError true) := by
  simp [hostRead, hw, hk]

/-- R55: a write to a mapped slot. -/
theorem hostWrite_of_slot {addr size : Nat} {v : Word} {k : Slot}
    (hw : inWindow s.params addr = true)
    (hk : accessSlot s.params (addr - s.params.base) size = some k) :
    hostWrite addr size v s = writeSlot s k v := by
  simp [hostWrite, hw, hk]

/-- R53: a write that reaches no slot is a bus error. -/
theorem hostWrite_of_none {addr size : Nat} {v : Word} (hw : inWindow s.params addr = true)
    (hk : accessSlot s.params (addr - s.params.base) size = none) :
    hostWrite addr size v s = .next (s.busError false) := by
  simp [hostWrite, hw, hk]

/-- All a command's write can answer: the command is accepted, or it is rejected. -/
theorem runCommand_cases (w : Word) (s : State) :
    (∃ i, decodeWord w = .instr i ∧
      runCommand w s = .next (acceptCommand (kernelOf i) i.operands (s.setCmd w))) ∨
    (∃ c : BitVec 4, c.toNat ≤ 4 ∧ c ≠ 0 ∧ runCommand w s = .next ((s.setCmd w).reject c)) := by
  cases hd : decodeWord w with
  | instr i =>
    rcases predict_cases (kernelOf i) i.operands (s.setCmd w) rfl with ⟨-, h⟩ | ⟨-, h⟩
    · exact .inl ⟨i, rfl, by simp only [runCommand, hd, exec_eq_predict]; exact h⟩
    · exact .inr ⟨errRange, by decide, by decide, by
        simp only [runCommand, hd, exec_eq_predict]; exact h⟩
  | illegal e =>
    exact .inr ⟨errorCode e, by cases e <;> decide, by cases e <;> decide, by
      simp only [runCommand, hd]⟩

/-- R50: an access outside the window stops. -/
theorem hostRead_outside {addr size : Nat} (hw : ¬ inWindow s.params addr = true) :
    hostRead addr size s = .fault (.outsideWindow addr) := by
  simp [hostRead, hw]

/-- R50: an access outside the window stops. -/
theorem hostWrite_outside {addr size : Nat} {v : Word} (hw : ¬ inWindow s.params addr = true) :
    hostWrite addr size v s = .fault (.outsideWindow addr) := by
  simp [hostWrite, hw]

/-- A slot that an offset reaches is mapped, at that offset. -/
theorem slotAt_mapped {off : Nat} {k : Slot} (h : slotAt p off = some k) :
    k.Mapped p ∧ off = slotOffset k := by
  unfold slotAt at h
  split_ifs at h <;>
    (first | (cases h; done) | (cases h; simp only [Slot.Mapped, slotOffset, true_and]; omega))

/-- All that a write to a slot can do. -/
theorem writeSlot_cases {t : State} {k : Slot} {v : Word} (h : writeSlot s k v = .next t) :
    (k = .cmd ∧ ∃ i, decodeWord v = .instr i ∧
      topIndex i.operands + (kernelOf i).topReach i.operands < s.params.tlLen ∧
      t = acceptCommand (kernelOf i) i.operands ((s.answer writeDone).setCmd v)) ∨
    (k = .cmd ∧ ∃ c : BitVec 4, c.toNat ≤ 4 ∧ t = ((s.answer writeDone).setCmd v).reject c) ∨
    (k = .status ∧ t = (s.setStatus (statusWrite v s.status)).answer writeDone) ∨
    (k = .config ∧ t = s.busError false) ∨
    (∃ i, k = .resid i ∧ t = (s.setResid [(i, .val v)]).answer writeDone) ∨
    (∃ i, k = .leftRow i ∧ t = (s.setLeftRow [(i, sampleOfWord v)]).answer writeDone) ∨
    (∃ i, k = .topLeft i ∧ t = (s.setTopLeft [(i, sampleOfWord v)]).answer writeDone) ∨
    (∃ i, k = .pixOut i ∧ t = (s.setPixOut [(i, sampleOfWord v)]).answer writeDone) ∨
    (∃ i, k = .topLine i ∧ t = (s.setTopLine [(i, sampleOfWord v)]).answer writeDone) := by
  cases k with
  | cmd =>
    simp only [writeSlot] at h
    cases hd : decodeWord v with
    | illegal e =>
      simp only [runCommand, hd] at h
      cases h
      exact .inr (.inl ⟨rfl, _, by cases e <;> decide, rfl⟩)
    | instr i =>
      simp only [runCommand, hd, exec_eq_predict] at h
      rcases predict_cases _ _ _ h with ⟨a, b⟩ | ⟨a, b⟩ <;> cases b
      · exact .inl ⟨rfl, i, rfl, a, rfl⟩
      · exact .inr (.inl ⟨rfl, _, by decide, rfl⟩)
  | _ => simp only [writeSlot] at h; cases h; simp

/-- All that a step can do: nothing is pending; a reset; a bus error; a read that completes; a write to a
mapped slot. -/
theorem step_cases {t : State} (h : step s = .next t) :
    (s.pending = [] ∧ t = s) ∨
    (∃ rest, s.pending = .reset :: rest ∧ t = (s.setPending rest).resetEvent) ∨
    (∃ e rest b, s.pending = e :: rest ∧ e ≠ .reset ∧ t = (s.setPending rest).busError b) ∨
    (∃ addr rest w, s.pending = .read addr 4 :: rest ∧
      t = (s.setPending rest).answer { error := false, data := some w }) ∨
    (∃ v k rest, s.pending = .write (s.params.base + slotOffset k) 4 v :: rest ∧
      k.Mapped s.params ∧ writeSlot (s.setPending rest) k v = .next t) := by
  cases hp : s.pending with
  | nil => rw [step_of_idle hp] at h; cases h; exact .inl ⟨rfl, rfl⟩
  | cons e rest =>
    rw [step_of_pending hp] at h
    right
    cases e with
    | reset => left; simp only [hostEvent] at h; cases h; exact ⟨rest, rfl, rfl⟩
    | read addr size =>
      right
      simp only [hostEvent] at h
      by_cases hw : inWindow (s.setPending rest).params addr = true
      · cases hk : accessSlot (s.setPending rest).params
            (addr - (s.setPending rest).params.base) size with
        | none => rw [hostRead_of_none hw hk] at h; cases h; exact .inl ⟨_, rest, true, rfl, by simp, rfl⟩
        | some k =>
          rw [hostRead_of_slot hw hk] at h; cases h
          unfold accessSlot at hk
          split at hk
          · rename_i hs; subst hs; exact .inr (.inl ⟨addr, rest, _, rfl, rfl⟩)
          · cases hk
      · rw [hostRead_outside hw] at h; cases h
    | write addr size v =>
      right
      simp only [hostEvent] at h
      by_cases hw : inWindow (s.setPending rest).params addr = true
      · cases hk : accessSlot (s.setPending rest).params
            (addr - (s.setPending rest).params.base) size with
        | none => rw [hostWrite_of_none hw hk] at h; cases h; exact .inl ⟨_, rest, false, rfl, by simp, rfl⟩
        | some k =>
          rw [hostWrite_of_slot hw hk] at h
          unfold accessSlot at hk
          split at hk
          · rename_i hs; subst hs
            obtain ⟨hm, ho⟩ := slotAt_mapped hk
            have hw := inWindow_iff.1 hw
            refine .inr (.inr ⟨v, k, rest, ?_, hm, h⟩)
            simp only [State.setPending_params] at hw ho
            rw [← ho]; congr 2; omega
          · cases hk
      · rw [hostWrite_outside hw] at h; cases h

end Sys2Proof.Machine
end

