-- ==== Sys2Proof/Tests/Slice0.lean ====
section
/-! SUPPORT. Tests.  Every expected value is the spec's: spec/95_test_vectors.md, spec/30_encoding.md R93
and the examples of spec/41_spatial_modes.md, or hand calculation from a rule named in the comment. -/

namespace Sys2Proof.Tests

open Sys2Proof.Machine

/-! ### WellFormed: each check refuses an ill-formed term (R84, R86, R91) -/

theorem test_wellFormed_accepts : (Instr.predDc ⟨true, true, false, 4, 12, 65535⟩).WellFormed := by decide
theorem test_wellFormed_blkX_multiple : ¬ (Instr.predV ⟨false, false, false, 5, 0, 0⟩).WellFormed := by decide
theorem test_wellFormed_blkX_bound : ¬ (Instr.predH ⟨false, false, false, 16, 0, 0⟩).WellFormed := by decide
theorem test_wellFormed_blkY_multiple : ¬ (Instr.predVl ⟨false, false, false, 0, 2, 0⟩).WellFormed := by decide
theorem test_wellFormed_blkY_bound : ¬ (Instr.predHu ⟨false, false, false, 0, 16, 0⟩).WellFormed := by decide
theorem test_wellFormed_mbOffX_bound : ¬ (Instr.predDdl ⟨false, false, false, 0, 0, 65536⟩).WellFormed := by decide

/-! ### Decode: every constructor by a word written out from R80 (MBOFFX OPC BY BX RSVD TRA TA LA MODE) -/

theorem test_decode_v : decodeWord 0b0000000000010000_0000_01_01_0_0_1_0_0000#32 =
    .instr (.predV ⟨false, true, false, 4, 4, 16⟩) := by decide
theorem test_decode_h : decodeWord 0b0000000000000000_0000_10_11_0_0_0_1_0001#32 =
    .instr (.predH ⟨true, false, false, 12, 8, 0⟩) := by decide
theorem test_decode_dc : decodeWord 0b0000000000010000_0000_01_01_0_0_1_1_0010#32 =
    .instr (.predDc ⟨true, true, false, 4, 4, 16⟩) := by decide
theorem test_decode_ddl : decodeWord 0b0000000000010000_0000_01_01_0_1_1_0_0011#32 =
    .instr (.predDdl ⟨false, true, true, 4, 4, 16⟩) := by decide
theorem test_decode_ddr : decodeWord 0b1111111111110000_0000_11_11_0_0_1_1_0100#32 =
    .instr (.predDdr ⟨true, true, false, 12, 12, 0xFFF0⟩) := by decide
theorem test_decode_vr : decodeWord 0b0000000000000000_0000_01_01_0_0_1_1_0101#32 =
    .instr (.predVr ⟨true, true, false, 4, 4, 0⟩) := by decide
theorem test_decode_hd : decodeWord 0b0000000000010000_0000_01_01_0_0_1_1_0110#32 =
    .instr (.predHd ⟨true, true, false, 4, 4, 16⟩) := by decide
theorem test_decode_vl : decodeWord 0b0000000000110000_0000_00_10_0_1_1_0_0111#32 =
    .instr (.predVl ⟨false, true, true, 8, 0, 48⟩) := by decide
theorem test_decode_hu : decodeWord 0b0000000000100000_0000_10_00_0_0_0_1_1000#32 =
    .instr (.predHu ⟨true, false, false, 0, 8, 32⟩) := by decide

/-- The illegal words of spec/95_test_vectors.md 2.1, in R172's priority. -/
theorem test_decode_illegal :
    [0x00000009#32, 0x0000000F#32, 0x00000080#32, 0x00001000#32, 0x00001089#32, 0x00000089#32].map decodeWord =
      [.illegal .modeOutOfRange, .illegal .modeOutOfRange, .illegal .reservedBit, .illegal .reservedClass,
        .illegal .reservedClass, .illegal .reservedBit] := by decide

/-- R91's example. -/
theorem test_encode_dc : encode (.predDc ⟨true, true, false, 4, 4, 16⟩) = 0x00100532#32 := by decide

/-- spec/95_test_vectors.md V-CACHE. -/
theorem test_encode_h : encode (.predH ⟨true, false, false, 12, 8, 0⟩) = 0x00000B11#32 := by decide

theorem test_decodeTableWord : decodeTableWord 32 0x00100532 =
    some (.predDc ⟨true, true, false, 4, 4, 16⟩) := by decide

/-! ### The modes: the vectors of spec/95_test_vectors.md 2.2 -/

/-- Consecutive entries from index `i`. -/
def entriesFrom (i : Nat) (l : List Int) : List (Nat × Entry 8) :=
  match l with
  | [] => []
  | v :: rest => (i, sampleEntry v) :: entriesFrom (i + 1) rest

/-- Reset with `RESET_FILL = 0` and `TL_LEN = 64`, the start of the spec's vectors. -/
def zeroed : State := State.resetWith { defaultParams with resetFill := .val 0 }

/-- The neighbours of the block at `blkX = 4`, `blkY = 4`, `mbOffX = 16`: the row above and the
top-right row, the corner, the column to the left. -/
def withNeighbours (t : List Int) (q : Int) (l : List Int) : State :=
  ((zeroed.setTopLine (entriesFrom 20 t)).setTopLeft (entriesFrom 1 [q])).setLeftRow (entriesFrom 4 l)

/-- NS1. -/
def ns1 : State := withNeighbours [10, 20, 30, 40, 50, 60, 70, 80] 5 [15, 25, 35, 45]
/-- NS1 with the sentinel 99 in the top-right row. -/
def ns1s : State := withNeighbours [10, 20, 30, 40, 99, 99, 99, 99] 5 [15, 25, 35, 45]
/-- NS2. -/
def ns2 : State := withNeighbours [-1, -2, -3, -4, -5, -6, -7, -8] (-128) [-1, -1, -1, -2]
/-- NS2 with the sentinel 99 in the top-right row. -/
def ns2s : State := withNeighbours [-1, -2, -3, -4, 99, 99, 99, 99] (-128) [-1, -1, -1, -2]

/-- The state after the host writes `w` to `CMD`. -/
def after (s : State) (w : Nat) : Option State :=
  match step (s.withFetchWord 32 w) with
  | .next t => some t
  | .fault _ => none
  | .refused _ => none

/-- The block's 16 outputs, `LEFTROW[4..7]`, `TOPLINE[20..23]`, `TOPLEFT[1]` and `STATUS`. -/
def seen (t : State) : List Int × List Int × List Int × Int × Word :=
  ((List.range 16).map (fun i => entryInt (t.pixOutAt (16 * (4 + i / 4) + 4 + i % 4))),
   (List.range 4).map (fun i => entryInt (t.leftRowAt (4 + i))),
   (List.range 4).map (fun i => entryInt (t.topLineAt (20 + i))),
   entryInt (t.topLeftAt 1), statusWord t.status)

theorem test_v_ns1 : (after ns1 0x00100520).map seen = some
    ([10, 20, 30, 40, 10, 20, 30, 40, 10, 20, 30, 40, 10, 20, 30, 40],
      [40, 40, 40, 40], [10, 20, 30, 40], 40, 0) := by decide
theorem test_h_ns1 : (after ns1 0x00100511).map seen = some
    ([15, 15, 15, 15, 25, 25, 25, 25, 35, 35, 35, 35, 45, 45, 45, 45],
      [15, 25, 35, 45], [45, 45, 45, 45], 40, 0) := by decide
theorem test_dc_ns1 : (after ns1 0x00100532).map seen = some
    ([28, 28, 28, 28, 28, 28, 28, 28, 28, 28, 28, 28, 28, 28, 28, 28],
      [28, 28, 28, 28], [28, 28, 28, 28], 40, 0) := by decide
theorem test_ddl_ns1 : (after ns1 0x00100563).map seen = some
    ([20, 30, 40, 50, 30, 40, 50, 60, 40, 50, 60, 70, 50, 60, 70, 78],
      [50, 60, 70, 78], [50, 60, 70, 78], 40, 0) := by decide
theorem test_ddr_ns1 : (after ns1 0x00100534).map seen = some
    ([9, 11, 20, 30, 15, 9, 11, 20, 25, 15, 9, 11, 35, 25, 15, 9],
      [30, 20, 11, 9], [35, 25, 15, 9], 40, 0) := by decide
theorem test_vr_ns1 : (after ns1 0x00100535).map seen = some
    ([8, 15, 25, 35, 9, 11, 20, 30, 15, 8, 15, 25, 25, 9, 11, 20],
      [35, 30, 25, 20], [25, 9, 11, 20], 40, 0) := by decide
theorem test_hd_ns1 : (after ns1 0x00100536).map seen = some
    ([10, 9, 11, 20, 20, 15, 10, 9, 30, 25, 20, 15, 40, 35, 30, 25],
      [20, 9, 15, 25], [40, 35, 30, 25], 40, 0) := by decide
theorem test_vl_ns1s : (after ns1s 0x00100527).map seen = some
    ([15, 25, 35, 40, 20, 30, 38, 40, 25, 35, 40, 40, 30, 38, 40, 40],
      [40, 40, 40, 40], [30, 38, 40, 40], 40, 0) := by decide
theorem test_hu_ns1 : (after ns1 0x00100518).map seen = some
    ([20, 25, 30, 35, 30, 35, 40, 43, 40, 43, 45, 45, 45, 45, 45, 45],
      [35, 43, 45, 45], [45, 45, 45, 45], 40, 0) := by decide
theorem test_v_ns2 : (after ns2 0x00100520).map seen = some
    ([-1, -2, -3, -4, -1, -2, -3, -4, -1, -2, -3, -4, -1, -2, -3, -4],
      [-4, -4, -4, -4], [-1, -2, -3, -4], -4, 0) := by decide
theorem test_h_ns2 : (after ns2 0x00100511).map seen = some
    ([-1, -1, -1, -1, -1, -1, -1, -1, -1, -1, -1, -1, -2, -2, -2, -2],
      [-1, -1, -1, -2], [-2, -2, -2, -2], -4, 0) := by decide
theorem test_dc_ns2 : (after ns2 0x00100532).map seen = some
    ([-2, -2, -2, -2, -2, -2, -2, -2, -2, -2, -2, -2, -2, -2, -2, -2],
      [-2, -2, -2, -2], [-2, -2, -2, -2], -4, 0) := by decide
theorem test_ddl_ns2s : (after ns2s 0x00100523).map seen = some
    ([-2, -3, -4, -4, -3, -4, -4, -4, -4, -4, -4, -4, -4, -4, -4, -4],
      [-4, -4, -4, -4], [-4, -4, -4, -4], -4, 0) := by decide
theorem test_ddr_ns2 : (after ns2 0x00100534).map seen = some
    ([-64, -33, -2, -3, -33, -64, -33, -2, -1, -33, -64, -33, -1, -1, -33, -64],
      [-3, -2, -33, -64], [-1, -1, -33, -64], -4, 0) := by decide
theorem test_vr_ns2 : (after ns2 0x00100535).map seen = some
    ([-64, -1, -2, -3, -64, -33, -2, -3, -33, -64, -1, -2, -1, -64, -33, -2],
      [-3, -3, -2, -2], [-1, -64, -33, -2], -4, 0) := by decide
theorem test_hd_ns2 : (after ns2 0x00100536).map seen = some
    ([-64, -64, -33, -2, -1, -33, -64, -64, -1, -1, -1, -33, -1, -1, -1, -1],
      [-2, -64, -33, -1], [-1, -1, -1, -1], -4, 0) := by decide
theorem test_vl_ns2 : (after ns2 0x00100567).map seen = some
    ([-1, -2, -3, -4, -2, -3, -4, -5, -2, -3, -4, -5, -3, -4, -5, -6],
      [-4, -5, -5, -6], [-3, -4, -5, -6], -4, 0) := by decide
theorem test_hu_ns2 : (after ns2 0x00100518).map seen = some
    ([-1, -1, -1, -1, -1, -1, -1, -2, -1, -2, -2, -2, -2, -2, -2, -2],
      [-1, -2, -2, -2], [-2, -2, -2, -2], -4, 0) := by decide

/-! ### The pipeline and the errors: spec/95_test_vectors.md 2.3, 2.4, 2.7 -/

/-- V-DC-2, V-DC-3, V-DC-6 and V-DC-8: the first output by the flags, floored. -/
theorem test_dc_flags :
    [(after ns1 0x00100512).map (fun t => t.pixOutAt 68), (after ns1 0x00100522).map (fun t => t.pixOutAt 68),
      (after ns2 0x00100512).map (fun t => t.pixOutAt 68), (after ns2 0x00100502).map (fun t => t.pixOutAt 68)] =
    [some (sampleEntry 30), some (sampleEntry 25), some (sampleEntry (-1)), some (sampleEntry 0)] := by decide

/-- V-CLIP: no 32-bit wrap in the residual add. -/
theorem test_clip : (after ((withNeighbours [127, -128, 0, 5] 0 []).setResid
      [(0, .val 0x7FFFFFFF#32), (1, .val 0x80000000#32), (2, .val 0x00000080#32), (3, .val 0xFFFFFF7B#32),
       (4, .val 1#32), (5, .val 0xFFFFFFFF#32), (6, .val 127#32), (7, .val 0xFFFFFF80#32)]) 0x00100520).map seen =
    some ([127, -128, 127, -128, 127, -128, 127, -123, 127, -128, 0, 5, 127, -128, 0, 5],
      [-128, -123, 5, 5], [127, -128, 0, 5], 5, 0) := by decide

/-- V-CACHE: the block at (12, 8), where the corner is `TOPLEFT[2]`. -/
theorem test_cache_update :
    (after (((zeroed.setLeftRow (entriesFrom 8 [1, 2, 3, 4])).setTopLine (entriesFrom 12 [9, 9, 9, 7])).setResid
      ((List.range 16).map (fun i => (i, .val (BitVec.ofNat 32 (i % 4)))))) 0x00000B11).map
      (fun t => (t.leftRow, t.topLine, t.topLeft, t.pixOutAt (16 * 11 + 15))) =
    some (entriesFrom 8 [4, 5, 6, 7], entriesFrom 12 [4, 5, 6, 7], entriesFrom 2 [7], sampleEntry 7) := by decide

/-- V-ERR-1 to V-ERR-8: `STATUS` after each word, from reset. -/
theorem test_status_codes :
    [0x00000009, 0x00001089, 0x00310300, 0x00300300, 0x00300363, 0x00300267, 0x00300367, 0x00300323].map
      (fun w => (after zeroed w).map (fun t => statusWord t.status)) =
    [some 0x103#32, some 0x101#32, some 0x104#32, some 0#32, some 0x104#32, some 0#32, some 0x104#32, some 0#32] := by
  decide

/-- R33: from `State.reset` a command completes, and what it writes from poison is poison. -/
theorem test_reset_poison : (after State.reset 0x00100520).map (fun t => (t.pixOutAt 68, t.cmd, t.status)) =
    some (.poison, 0x00100520#32, ⟨0, false, false⟩) := by decide

/-- R33, U8: one poisoned residual, and every entry the command writes is poison, the corner too. -/
theorem test_poisoned_residual : (after (ns1.setResid [(3, .poison)]) 0x00100520).map
      (fun t => (t.pixOutAt 68, t.leftRowAt 4, t.topLineAt 20, t.topLeftAt 1)) =
    some (.poison, .poison, .poison, .poison) := by decide

/-! ### The window: spec/95_test_vectors.md 2.8 -/

/-- The state after one host event. -/
def event (s : State) (e : HostEvent) : Option State :=
  match step (s.setPending [e]) with
  | .next t => some t
  | .fault _ => none
  | .refused _ => none

/-- What reading offset `off` answers. -/
def readBack (off : Nat) (t : State) : Option Response := (event t (.read off 4)).bind State.resp

/-- V-HOST-1, 2, 3: a sample slot keeps the low byte, sign-extended; a residual slot the word. -/
theorem test_write_read :
    [(event zeroed (.write 0x200 4 0x00000080#32)).bind (readBack 0x200),
     (event zeroed (.write 0x200 4 0x12345605#32)).bind (readBack 0x200),
     (event zeroed (.write 0x10C 4 0xFFFFFFFF#32)).bind (readBack 0x10C)] =
    [some ⟨false, some 0xFFFFFF80#32⟩, some ⟨false, some 5#32⟩, some ⟨false, some 0xFFFFFFFF#32⟩] := by decide

/-- V-HOST-4, 5. -/
theorem test_config : readBack 8 zeroed = some ⟨false, some 0x01000040#32⟩ ∧
    readBack 8 { zeroed with params := { zeroed.params with tlLen := 65536 } } =
      some ⟨false, some 0x01010000#32⟩ := by decide

/-- V-HOST-6 to 9: bus errors, the last past `TL_LEN`; the slot before it is mapped. -/
theorem test_bus_errors :
    (event zeroed (.write 8 4 0)).map (fun t => (t.resp, statusWord t.status)) =
      some (some ⟨true, none⟩, 0x200#32) ∧
    [0x2, 0xC, 0x40100, 0x400FC].map (fun a => readBack a zeroed) =
      [some ⟨true, some 0⟩, some ⟨true, some 0⟩, some ⟨true, some 0⟩, some ⟨false, some 0⟩] := by decide

/-- V-HOST-10: only bit 8 is cleared. -/
theorem test_status_clear :
    (event { zeroed with status := ⟨3, true, true⟩ } (.write 4 4 0x00000100#32)).map
      (fun t => statusWord t.status) = some 0x203#32 := by decide

/-- R50: an address past the window stops. -/
theorem test_outside : event zeroed (.read (2 ^ 19) 4) = none := by decide

/-- R91's example. -/
theorem test_asm_text : asmText (.predDc ⟨true, true, false, 4, 4, 16⟩) = "pred.dc lt-, 4, 4, 16" := by decide

/-- Program P1's first lines: the offsets its comments give. -/
theorem test_expand : expandAll zeroed.params
    [.wrRange .topLine 16 [10#32, 20#32], .wr (.topLeft 0) 5#32, .pred (.predV ⟨false, true, false, 0, 0, 16⟩),
      .rd .status, .rdAt 2] =
    [.write 0x40040 4 10#32, .write 0x40044 4 20#32, .write 0x300 4 5#32, .write 0 4 0x00100020#32, .read 4 4,
      .read 2 4] := by decide

/-! ### Witnesses: for each statement with hypotheses, a state and operands that meet them all -/

/-- The values NS1 holds. -/
def t1 (i : Nat) : Int := [10, 20, 30, 40, 50, 60, 70, 80].getD i 0
/-- NS1's top row with the top-right row replicated. -/
def t1r (i : Nat) : Int := [10, 20, 30, 40, 40, 40, 40, 40].getD i 0
/-- NS1's left column. -/
def l1 (i : Nat) : Int := [15, 25, 35, 45].getD i 0
/-- The block of the spec's vectors with all three flags, in range. -/
def o1 : Operands := ⟨true, true, true, 4, 4, 16⟩
/-- The same block without the top-right row. -/
def o1s : Operands := ⟨true, true, false, 4, 4, 16⟩
/-- A block one past the end of `TOPLINE` (V-ERR-3). -/
def oBad : Operands := ⟨true, true, false, 12, 0, 49⟩

theorem witness_vertical : TopIs o1 ns1 t1 4 ∧ ResidIs ns1 (fun _ => 0) ∧ NoDraw ns1 o1.ta ∧
    o1.mbOffX + o1.blkX + 3 < ns1.params.tlLen := by decide
theorem witness_vertical_rejected : TopIs oBad zeroed (fun _ => 0) 4 ∧ ResidIs zeroed (fun _ => 0) ∧
    NoDraw zeroed oBad.ta ∧ ¬ oBad.mbOffX + oBad.blkX + 3 < zeroed.params.tlLen := by decide
theorem witness_horizontal : LeftIs o1 ns1 l1 4 ∧ ResidIs ns1 (fun _ => 0) ∧ NoDraw ns1 o1.la := by decide
theorem witness_dc : (o1.ta = true → TopIs o1 ns1 t1 4) ∧ (o1.la = true → LeftIs o1 ns1 l1 4) ∧
    ResidIs ns1 (fun _ => 0) := by decide
theorem witness_downLeft : TopIs o1 ns1 t1 4 ∧ TopRightIs o1 ns1 t1 8 ∧ ResidIs ns1 (fun _ => 0) ∧
    NoDraw ns1 o1.ta := by decide
theorem witness_downLeft_replicated : TopIs o1s ns1s t1r 4 ∧ TopRightIs o1s ns1s t1r 8 ∧
    ResidIs ns1s (fun _ => 0) ∧ NoDraw ns1s o1s.ta := by decide
theorem witness_downRight : TopIs o1 ns1 t1 4 ∧ LeftIs o1 ns1 l1 4 ∧ CornerIs o1 ns1 5 ∧
    ResidIs ns1 (fun _ => 0) ∧ NoDraw ns1 (o1.la && o1.ta) := by decide
theorem witness_verticalRight : TopIs o1 ns1 t1 4 ∧ LeftIs o1 ns1 l1 3 ∧ CornerIs o1 ns1 5 ∧
    ResidIs ns1 (fun _ => 0) ∧ NoDraw ns1 (o1.la && o1.ta) := by decide
theorem witness_horizontalDown : TopIs o1 ns1 t1 3 ∧ LeftIs o1 ns1 l1 4 ∧ CornerIs o1 ns1 5 ∧
    ResidIs ns1 (fun _ => 0) ∧ NoDraw ns1 (o1.la && o1.ta) := by decide
theorem witness_verticalLeft : TopIs o1s ns1s t1r 4 ∧ TopRightIs o1s ns1s t1r 7 ∧
    ResidIs ns1s (fun _ => 0) ∧ NoDraw ns1s o1s.ta := by decide
theorem witness_horizontalUp : LeftIs o1 ns1 l1 4 ∧ ResidIs ns1 (fun _ => 0) ∧ NoDraw ns1 o1.la := by decide
theorem witness_range : InRange (.predDdl o1) ns1 ∧ ¬ InRange (.predDdl ⟨false, true, true, 12, 0, 48⟩) ns1 ∧
    InRange (.predDdl ⟨false, true, false, 12, 0, 48⟩) ns1 ∧
    InRange (.predVl ⟨false, true, true, 12, 0, 45⟩) ns1 ∧
    ¬ InRange (.predVl ⟨false, true, true, 12, 0, 46⟩) ns1 := by decide
theorem witness_readSet : InRange (.predDdl o1s) ns1 ∧ ns1s.params = ns1.params ∧ ns1s.draws = ns1.draws ∧
    (∀ j < 16, ns1s.residAt j = ns1.residAt j) ∧
    (∀ c ∈ readSet (.predDdl o1s), neighbourEntry o1s ns1s c = neighbourEntry o1s ns1 c) ∧ ns1s ≠ ns1 := by decide
theorem witness_accepted : InRange (.predDdl o1s) ns1 ∧ ¬ ReadsPoison (.predDdl o1s) ns1 ∧
    NoDraw ns1 (requirementMet (.predDdl o1s)) := by decide
theorem witness_poison : InRange (.predV o1) State.reset ∧ ReadsPoison (.predV o1) State.reset ∧
    (∃ c ∈ readSet (.predV o1), neighbourEntry o1 State.reset c = .poison) ∧
    State.reset.residAt 15 = .poison := by decide
theorem witness_poison_residual : InRange (.predV o1) (ns1.setResid [(15, .poison)]) ∧
    ReadsPoison (.predV o1) (ns1.setResid [(15, .poison)]) ∧
    oldCorner o1 (ns1.setResid [(15, .poison)]) ≠ .poison := by decide
theorem witness_draw :
    let s : State := { ns1 with params := { ns1.params with unavailableRead := .draw } }
    InRange (.predDdr ⟨true, false, false, 4, 4, 16⟩) s ∧ s.params.unavailableRead = .draw ∧
    requirementMet (.predDdr ⟨true, false, false, 4, 4, 16⟩) = false ∧
    ¬ ReadsPoison (.predDdr ⟨true, false, false, 4, 4, 16⟩) s := by decide
theorem witness_flags : ns1.params.unavailableRead = .cache ∧ (Instr.predV o1).mode ≠ 2 ∧
    (Instr.predDc o1).mode ≠ 3 ∧ (Instr.predDc o1).mode ≠ 7 := by decide
theorem witness_residual : InRange (.predHu o1) ns1 ∧ ns1.params.unavailableRead = .cache ∧
    (∀ c ∈ readSet (.predHu o1), neighbourEntry o1 ns1 c ≠ .poison) ∧ ResidIs ns1 (fun _ => 0) ∧
    ResidIs { ns1 with resid := [(15, .val 200#32)] } (fun i => if i = 15 then 200 else 0) := by decide

/-- The blocks of the first rows in raster order, in several modes. -/
def raster : List Instr :=
  [.predDc ⟨true, true, false, 0, 0, 16⟩, .predV ⟨true, true, false, 4, 0, 16⟩,
   .predH ⟨true, true, false, 8, 0, 16⟩, .predHu ⟨true, true, false, 12, 0, 16⟩,
   .predVr ⟨true, true, false, 0, 4, 16⟩]

theorem raster_blocks : ∀ n i, raster[n]? = some i → IsRasterBlock n 16 i.operands := by
  intro n i h
  have hn : n < 5 := by
    have := (List.getElem?_eq_some_iff.1 h).1
    simpa [raster] using this
  interval_cases n <;> (simp only [raster] at h; cases h; decide)
/-- The host's write of a residual leaves the samples (R55). -/
theorem same_setResid (s : State) (v : Word) : SameSamples s (s.setResid [(0, .val v)]) :=
  ⟨rfl, fun _ => rfl, fun _ => rfl, fun _ => rfl, fun _ => rfl⟩

theorem witness_raster_inner : raster.length < 16 ∧
    (∃ t, RunsCommands raster ns1 t ∧ t.topLeftAt 1 ≠ .poison) ∧
    IsRasterBlock raster.length 16 ⟨true, true, true, 4, 4, 16⟩ :=
  ⟨by decide, ⟨_, ⟨_, _, same_setResid _ 1, by decide, rfl, _, _, same_setResid _ 2, by decide, rfl,
    _, _, same_setResid _ 3, by decide, rfl, _, _, same_setResid _ 4, by decide, rfl,
    _, _, same_setResid _ 5, by decide, rfl, same_setResid _ 6⟩, by decide⟩, by decide⟩
theorem witness_raster_edge : (∃ t, RunsCommands (raster.take 3) ns1 t) ∧
    IsRasterBlock (raster.take 3).length 16 ⟨true, true, false, 12, 0, 16⟩ :=
  ⟨⟨_, _, _, same_setResid _ 1, by decide, rfl, _, _, same_setResid _ 2, by decide, rfl,
    _, _, same_setResid _ 3, by decide, rfl, same_setResid _ 4⟩, by decide⟩

theorem witness_assembled : (Instr.predHu o1).WellFormed ∧
    (zeroed.setPending (expand zeroed.params (.pred (.predHu o1)))).pending =
      expand zeroed.params (.pred (.predHu o1)) ++ [] := by decide
theorem witness_encode : (Instr.predVl ⟨true, false, true, 12, 12, 65535⟩).WellFormed := by decide
theorem witness_fields : decodeWord 0xFFFF0F77#32 = .instr (.predVl ⟨true, true, true, 12, 12, 65535⟩) := by decide
theorem witness_command : (ns1.withFetchWord 32 0x00100532).pending =
    [.write (ns1.params.base + 0x00000) 4 0x00100532#32] := by decide
theorem witness_check_codes : [0x00001000, 0x00000080, 0x00000009, 0x00310300, 0x00300300].map (checkCode 64) =
    [1, 2, 3, 4, 0] := by decide

theorem zeroed_sound : zeroed.Sound :=
  ⟨by decide, by decide, by decide, by decide, by decide, by decide, by decide, by decide, by decide, by decide,
    by decide, by decide⟩
theorem witness_sound_step : (zeroed.withFetchWord 32 0x00100532).Sound ∧
    ∃ t, step (zeroed.withFetchWord 32 0x00100532) = .next t :=
  ⟨⟨by decide, by decide, by decide, by decide, by decide, by decide, by decide, by decide, by decide, by decide,
    by decide, by decide⟩, _, rfl⟩
theorem witness_params : (⟨65536, 2 ^ 19, .val 0, .draw⟩ : Params).WellFormed ∧
    (⟨4, 0, .poison, .cache⟩ : Params).WellFormed ∧ ¬ (⟨3, 0, .poison, .cache⟩ : Params).WellFormed := by decide
theorem witness_noPoison : zeroed.params.resetFill ≠ .poison ∧
    (zeroed.setPending [.write 0x200 4 5#32]).NoPoison ∧
    ∃ t, step (zeroed.setPending [.write 0x200 4 5#32]) = .next t :=
  ⟨by decide, ⟨fun _ => by simp [State.residAt, zeroed, State.resetWith, residFill],
    fun _ => by simp [State.pixOutAt, zeroed, State.resetWith, sampleFill, State.setPending],
    fun _ => by simp [State.leftRowAt, zeroed, State.resetWith, sampleFill, State.setPending],
    fun _ => by simp [State.topLeftAt, zeroed, State.resetWith, sampleFill, State.setPending],
    fun _ => by simp [State.topLineAt, zeroed, State.resetWith, sampleFill, State.setPending]⟩, _, rfl⟩
theorem witness_reset : (ns1.setPending [.reset]).pending = [.reset] ∧ ns1.params.resetFill = .val 0 ∧
    State.reset.params.resetFill = .poison := by decide
theorem witness_sticky :
    let s : State := { zeroed with
      status := ⟨4, true, true⟩, pending := [.write 4 4 0x00000300#32] }
    ∃ t, step s = .next t ∧ s.status.errSticky = true ∧ t.status.errSticky = false ∧
      s.status.busErrSticky = true ∧ t.status.busErrSticky = false :=
  ⟨_, rfl, by decide, by decide, by decide, by decide⟩
theorem witness_resid_write : ∃ t, step (zeroed.setPending [.write 0x13C 4 7#32]) = .next t ∧
    t.residAt 15 ≠ zeroed.residAt 15 := ⟨_, rfl, by decide⟩
theorem witness_stops : (zeroed.setPending [.read (2 ^ 19) 4]).pending.head? = some (.read (2 ^ 19) 4) ∧
    (zeroed.setPending [.write (2 ^ 19 - 1) 1 0]).pending.head? = some (.write (2 ^ 19 - 1) 1 0) := by decide
theorem witness_safeRun : ∃ t, SafeRun 1 (zeroed.withFetchWord 32 0x00100532) t :=
  ⟨_, _, rfl, by rintro ⟨d, h⟩; exact absurd h (by simp [State.setCmd, State.answer, writeDone, acceptCommand,
    State.setPixOut, State.setTopLeft, State.setLeftRow, State.setTopLine, State.setStatus, State.nextDraw]), rfl⟩
theorem witness_map : [0x13C, 0x23C, 0x30C, 0x7FC, 0x400FC].map (slotAt defaultParams) =
    [some (.resid 15), some (.leftRow 15), some (.topLeft 3), some (.pixOut 255), some (.topLine 63)] ∧
    [0x140, 0x240, 0x310, 0x800, 0x40100, 0x101].map (slotAt defaultParams) =
    [none, none, none, none, none, none] := by decide
theorem witness_read : zeroed.params.tlLen ≤ 65536 ∧ (Slot.topLine 63).Mapped zeroed.params ∧
    (zeroed.setPending [.read (zeroed.params.base + slotOffset (.topLine 63)) 4]).pending =
      [.read (0x400FC) 4] ∧ slotHolds zeroed (.topLine 63) 0 :=
  ⟨by decide, by decide, by decide, by unfold slotHolds; decide⟩
theorem witness_write : (Slot.leftRow 15).Mapped zeroed.params ∧ isSample (.leftRow 15) ∧
    (Slot.resid 15).Mapped zeroed.params := ⟨by decide, trivial, by decide⟩
theorem witness_status_config : (zeroed.setPending [.read (zeroed.params.base + 0x00004) 4]).pending =
    [.read 4 4] ∧ (zeroed.setPending [.write (zeroed.params.base + 0x00008) 4 1]).pending = [.write 8 4 1] := by
  decide
theorem witness_badAccess : (∀ k : Slot, k.Mapped zeroed.params → zeroed.params.base + slotOffset k ≠ 0x40100) ∧
    (0x40100 - zeroed.params.base) % 4 = 0 ∧ (2 - zeroed.params.base) % 4 ≠ 0 := by
  refine ⟨fun k hk => ?_, by decide, by decide⟩
  have hp : zeroed.params.base = 0 ∧ zeroed.params.tlLen = 64 := ⟨rfl, rfl⟩
  cases k <;> simp only [Slot.Mapped, slotOffset, hp.1, hp.2] at * <;> omega

end Sys2Proof.Tests
end

section
/-! The shift of R8 as a floor: the statement about the arithmetic of R8 to R10. -/

namespace Sys2Proof.Machine

/-- R8: the floor's defining property, from which both of its bounds follow. -/
theorem le_shr_iff {z a : Int} {n : Nat} : z ≤ shr a n ↔ z * 2 ^ n ≤ a :=
  Int.le_ediv_iff_mul_le (Int.pow_pos (by decide))

theorem shr_mul_two_pow_le (a : Int) (n : Nat) : shr a n * 2 ^ n ≤ a :=
  le_shr_iff.mp le_rfl

theorem lt_shr_add_one_mul_two_pow (a : Int) (n : Nat) : a < (shr a n + 1) * 2 ^ n :=
  not_le.mp fun h => (Int.lt_succ (shr a n)).not_ge (le_shr_iff.mpr h)

/-- Settles O19: the two bounds of the floor hold for every shift, the clip and the averages are
R9's and R10's formulas by definition, and the outer taps of `avg3` commute. -/
theorem shiftFloorsClipAndAveragesRound : Obligations.ShiftFloorsClipAndAveragesRound := by
  unfold Obligations.ShiftFloorsClipAndAveragesRound
  exact ⟨fun a n => ⟨shr_mul_two_pow_le a n, lt_shr_add_one_mul_two_pow a n⟩,
    by decide, by decide, fun _ => rfl, fun _ _ => rfl, fun a b c => ⟨rfl, avg3_comm a b c⟩⟩

end Sys2Proof.Machine
end

section
/-! The reset event of R200 takes every piece of state to R32's value: the statement about one reset
between transactions. -/

namespace Sys2Proof.Machine

/-- R200: a pending reset is one step of its own, which executes nothing. -/
theorem step_of_reset {s : State} {rest : List HostEvent} (h : s.pending = .reset :: rest) :
    step s = .next (s.setPending rest).resetEvent :=
  step_of_pending h

theorem residFill_of_poison {p : Params} (h : p.resetFill = .poison) : residFill p = .poison := by
  simp only [residFill, h]

theorem residFill_of_val {p : Params} {f : BitVec 8} (h : p.resetFill = .val f) :
    residFill p = .val (f.signExtend 32) := by
  simp only [residFill, h]

/-- R32: `RESID` is wide enough for an int8 fill, so the sign extension keeps its value. -/
theorem holds_signExtend (f : BitVec 8) : Holds (.val (f.signExtend 32)) f.toInt :=
  ⟨nofun, BitVec.toInt_signExtend_of_le (by decide)⟩

/-- Settles O34: the one step taken is the reset event, every array then reads as its reset content,
and `RESID`'s is `RESET_FILL` sign-extended where it is a value. -/
theorem resetEventSetsEveryPiece : Obligations.ResetEventSetsEveryPiece := by
  unfold Obligations.ResetEventSetsEveryPiece
  intro s rest hp
  refine ⟨_, step_of_reset hp, State.resetEvent_cmd .., State.resetEvent_params ..,
    State.resetEvent_status ..,
    fun i => ⟨State.resetEvent_pixOutAt _ i, State.resetEvent_leftRowAt _ i,
      State.resetEvent_topLeftAt _ i, State.resetEvent_topLineAt _ i⟩,
    fun hfill i => ?_, fun f hfill i => ?_⟩
  · rw [State.resetEvent_residAt, State.setPending_params, residFill_of_poison hfill]
  · rw [State.resetEvent_residAt, State.setPending_params, residFill_of_val hfill]
    exact holds_signExtend f

end Sys2Proof.Machine
end

section
/-! The window's map (R51, R62): an offset reaches the slot whose offset it is, and a step on a
transaction is what the map makes of its address. -/

namespace Sys2Proof.Machine

variable {s : State} {p : Params} {k : Slot} {off addr size : Nat} {v : Word}
  {rest : List HostEvent}

theorem slotOffset_mod_four (k : Slot) : slotOffset k % 4 = 0 := by
  cases k <;> simp only [slotOffset] <;> omega

/-- R51: the arrays' ranges of offsets do not overlap, so a slot's offset reaches that slot. -/
theorem slotAt_slotOffset (hk : k.Mapped p) : slotAt p (slotOffset k) = some k := by
  cases k with
  | cmd | status | config => rfl
  | resid i | leftRow i | topLeft i | pixOut i | topLine i =>
    simp only [Slot.Mapped] at hk
    simp (disch := omega) only [slotAt, slotOffset, if_neg, if_pos, Nat.add_sub_cancel_left,
      Nat.mul_div_cancel_left]

/-- R51, R62: both directions of the map. -/
theorem slotAt_eq_some_iff : slotAt p off = some k ↔ k.Mapped p ∧ off = slotOffset k :=
  ⟨slotAt_mapped, fun ⟨hk, hoff⟩ => hoff ▸ slotAt_slotOffset hk⟩

/-- R53: the accesses that reach nothing.  A misaligned offset is no slot's (`slotOffset_mod_four`). -/
theorem accessSlot_eq_none_iff :
    accessSlot p off size = none ↔ size ≠ 4 ∨ ∀ k : Slot, k.Mapped p → off ≠ slotOffset k := by
  by_cases hsize : size = 4
  · simp [accessSlot, hsize, Option.eq_none_iff_forall_ne_some, slotAt_eq_some_iff]
  · simp [accessSlot, hsize]

/-- R50: with `TL_LEN` at most 65536 every slot lies in the window. -/
theorem slotOffset_lt_of_mapped (hlen : p.tlLen ≤ 65536) (hk : k.Mapped p) :
    slotOffset k < 2 ^ 19 := by
  cases k <;> simp only [slotOffset, Slot.Mapped] at hk ⊢ <;> omega

theorem inWindow_slotOffset (hlt : slotOffset k < 2 ^ 19) :
    inWindow p (p.base + slotOffset k) = true :=
  inWindow_iff.2 ⟨by omega, by omega⟩

theorem accessSlot_slotOffset (hk : k.Mapped p) :
    accessSlot p (p.base + slotOffset k - p.base) 4 = some k := by
  rw [Nat.add_sub_cancel_left, accessSlot, if_pos rfl, slotAt_slotOffset hk]

@[simp] theorem readSlot_setPending (s : State) (l : List HostEvent) (k : Slot) :
    readSlot (s.setPending l) k = readSlot s k := by
  cases k <;> rfl

@[simp] theorem readSlot_answer (s : State) (r : Response) (k : Slot) :
    readSlot (s.answer r) k = readSlot s k := by
  cases k <;> rfl

/-- R54: a step on a read of a mapped slot. -/
theorem step_read_of_mapped (hlt : slotOffset k < 2 ^ 19) (hk : k.Mapped s.params)
    (hp : s.pending = .read (s.params.base + slotOffset k) 4 :: rest) :
    step s = .next ((s.setPending rest).answer { error := false, data := some (readSlot s k) }) := by
  rw [step_of_pending hp, ← readSlot_setPending s rest]
  exact hostRead_of_slot (s := s.setPending rest) (inWindow_slotOffset hlt)
    (accessSlot_slotOffset hk)

/-- R55: a step on a write to a mapped slot. -/
theorem step_write_of_mapped (hlt : slotOffset k < 2 ^ 19) (hk : k.Mapped s.params)
    (hp : s.pending = .write (s.params.base + slotOffset k) 4 v :: rest) :
    step s = writeSlot (s.setPending rest) k v :=
  (step_of_pending hp).trans <| hostWrite_of_slot (s := s.setPending rest)
    (inWindow_slotOffset hlt) (accessSlot_slotOffset hk)

/-- R53: a step on a read that reaches no slot. -/
theorem step_read_of_none (hw : inWindow s.params addr = true)
    (hnone : accessSlot s.params (addr - s.params.base) size = none)
    (hp : s.pending = .read addr size :: rest) :
    step s = .next ((s.setPending rest).busError true) :=
  (step_of_pending hp).trans <| hostRead_of_none (s := s.setPending rest) hw hnone

/-- R53: a step on a write that reaches no slot. -/
theorem step_write_of_none (hw : inWindow s.params addr = true)
    (hnone : accessSlot s.params (addr - s.params.base) size = none)
    (hp : s.pending = .write addr size v :: rest) :
    step s = .next ((s.setPending rest).busError false) :=
  (step_of_pending hp).trans <| hostWrite_of_none (s := s.setPending rest) hw hnone

/-- R61: a write to `CONFIG` is the bus error of a write that reaches no slot. -/
theorem step_write_config (hp : s.pending = .write (s.params.base + 0x00008) 4 v :: rest) :
    step s = .next ((s.setPending rest).busError false) :=
  step_write_of_mapped (k := .config) (by decide) trivial hp

/-- Settles O39: the map read in each direction; `TL_LEN` may be any number. -/
theorem windowMapIsTheTable : Obligations.WindowMapIsTheTable := by
  unfold Obligations.WindowMapIsTheTable
  exact fun _ _ _ _ => slotAt_eq_some_iff

/-- Settles O44: each of R53's conditions makes the access reach no slot, and `CONFIG` takes no
write. -/
theorem badAccessIsABusError : Obligations.BadAccessIsABusError := by
  unfold Obligations.BadAccessIsABusError
  intro s addr size rest hlo hhi bad
  have hw : inWindow s.params addr = true := inWindow_iff.2 ⟨hlo, hhi⟩
  have hnone (hbad : bad) : accessSlot s.params (addr - s.params.base) size = none := by
    rw [accessSlot_eq_none_iff]
    rcases hbad with halign | hsize | hmap
    · exact .inr fun k _ hoff => halign (hoff ▸ slotOffset_mod_four k)
    · exact .inl hsize
    · exact .inr fun k hk hoff => hmap k hk (by omega)
  refine ⟨fun hp hbad => step_read_of_none hw (hnone hbad) hp, fun v hp h => ?_⟩
  rcases h with hbad | rfl
  · exact step_write_of_none hw (hnone hbad) hp
  · by_cases hsize : size = 4
    · subst hsize
      exact step_write_config hp
    · exact step_write_of_none hw (hnone (.inr (.inl hsize))) hp

end Sys2Proof.Machine
end

section
/-! The host's reads and writes of the arrays' entries (R54 to R58). -/

namespace Sys2Proof.Machine

variable {s t : State} {k : Slot}

/-- R57, R58: the sign extension of an entry keeps its value. -/
theorem entryWord_toInt {w draws : Nat} {e : Entry w} {x : Int} (hw : w ≤ 32) (h : Holds e x) :
    (entryWord draws k e).toInt = x := by
  obtain ⟨hne, rfl⟩ := h
  cases e with
  | poison => exact absurd rfl hne
  | val v => exact BitVec.toInt_signExtend_of_le hw

theorem readSlot_toInt {x : Int} (h : slotHolds s k x) : (readSlot s k).toInt = x := by
  cases k with
  | cmd | status | config => exact h.elim
  | resid | leftRow | topLeft | pixOut | topLine => exact entryWord_toInt (by decide) h

/-- Settles O40: a read is `step_read_of_mapped`, and what it changes (the events still to come and
the answer) no slot reads, so it repeats. -/
theorem readAnswersTheSlotAndChangesNothing : Obligations.ReadAnswersTheSlotAndChangesNothing := by
  unfold Obligations.ReadAnswersTheSlotAndChangesNothing
  intro s k rest hlen hk hp
  have hlt := slotOffset_lt_of_mapped hlen hk
  refine ⟨readSlot s k, step_read_of_mapped hlt hk hp, fun x => readSlot_toInt,
    fun hcmd => hcmd ▸ rfl, fun rest' hrest => ?_⟩
  have hagain := step_read_of_mapped hlt hk hrest
    (s := (s.setPending rest).answer { error := false, data := some (readSlot s k) })
  rwa [readSlot_answer, readSlot_setPending] at hagain

/-- R6, R56: `s8(v)` is the low byte, read in two's complement. -/
theorem toInt_lowByte (v : Word) : (v.setWidth 8).toInt =
    if v.toNat % 256 < 128 then ((v.toNat % 256 : Nat) : Int) else (v.toNat % 256 : Nat) - 256 := by
  rw [BitVec.toInt_eq_toNat_cond, BitVec.toNat_setWidth]
  split_ifs <;> omega

/-- R55: the entry a write stores is the one its slot then shows. -/
theorem holds_store {w : Nat} (d : Entry w) (m : Memory w) (i : Nat) (v : BitVec w) :
    Holds (memGet d (memSetAll d m [(i, .val v)]) i) v.toInt := by
  rw [memGet_memSetAll_of_mem (List.pairwise_singleton ..) (List.mem_singleton_self _)]
  exact ⟨nofun, rfl⟩

/-- R55: the write to slot `slot i` leaves the entries of the same array's other slots. -/
theorem memGet_store_of_ne {w : Nat} {d e : Entry w} {m : Memory w} {slot : Nat → Slot} {i j : Nat}
    (h : slot i ≠ slot j) : memGet d (memSetAll d m [(i, e)]) j = memGet d m j :=
  memGet_memSetAll_of_not_mem <| List.forall_mem_singleton.2 fun hij => h (congrArg slot hij)

/-- The host's events still to come are no part of what `SameBut` compares. -/
theorem SameBut.of_setPending {l : List HostEvent} (h : SameBut k (s.setPending l) t) :
    SameBut k s t :=
  ⟨h.resid, h.leftRow, h.topLeft, h.pixOut, h.topLine, h.registers⟩

/-- R58: a write to a residual slot. -/
theorem writeSlot_resid (s : State) (i : Nat) (v : Word) :
    ∃ t, writeSlot s (.resid i) v = .next t ∧ SameBut (.resid i) s t ∧ t.pending = s.pending ∧
      t.resp = some writeDone ∧ slotHolds t (.resid i) v.toInt :=
  ⟨_, rfl, { resid _ h := memGet_store_of_ne h
             leftRow _ _ := rfl, topLeft _ _ := rfl, pixOut _ _ := rfl, topLine _ _ := rfl
             registers := ⟨rfl, rfl, rfl⟩ }, rfl, rfl, holds_store ..⟩

/-- R56: a write to a sample slot. -/
theorem writeSlot_sample (s : State) (v : Word) (hk : isSample k) :
    ∃ t, writeSlot s k v = .next t ∧ SameBut k s t ∧ t.pending = s.pending ∧
      t.resp = some writeDone ∧ slotHolds t k (v.setWidth 8).toInt := by
  cases k with
  | cmd | status | config | resid => exact hk.elim
  | leftRow i =>
    exact ⟨_, rfl, { leftRow _ h := memGet_store_of_ne h
                     resid _ _ := rfl, topLeft _ _ := rfl, pixOut _ _ := rfl, topLine _ _ := rfl
                     registers := ⟨rfl, rfl, rfl⟩ }, rfl, rfl, holds_store ..⟩
  | topLeft i =>
    exact ⟨_, rfl, { topLeft _ h := memGet_store_of_ne h
                     resid _ _ := rfl, leftRow _ _ := rfl, pixOut _ _ := rfl, topLine _ _ := rfl
                     registers := ⟨rfl, rfl, rfl⟩ }, rfl, rfl, holds_store ..⟩
  | pixOut i =>
    exact ⟨_, rfl, { pixOut _ h := memGet_store_of_ne h
                     resid _ _ := rfl, leftRow _ _ := rfl, topLeft _ _ := rfl, topLine _ _ := rfl
                     registers := ⟨rfl, rfl, rfl⟩ }, rfl, rfl, holds_store ..⟩
  | topLine i =>
    exact ⟨_, rfl, { topLine _ h := memGet_store_of_ne h
                     resid _ _ := rfl, leftRow _ _ := rfl, topLeft _ _ := rfl, pixOut _ _ := rfl
                     registers := ⟨rfl, rfl, rfl⟩ }, rfl, rfl, holds_store ..⟩

/-- Settles O41: the step is the write to the slot, with the event removed. -/
theorem writeStoresInThatSlotOnly : Obligations.WriteStoresInThatSlotOnly := by
  unfold Obligations.WriteStoresInThatSlotOnly
  intro s k v rest hlen hk hp
  have hstep := step_write_of_mapped (slotOffset_lt_of_mapped hlen hk) hk hp
  refine ⟨fun hsample => ?_, fun i hresid => ?_⟩
  · obtain ⟨t, ht, hsame, hpending, hresp, hholds⟩ := writeSlot_sample (s.setPending rest) v hsample
    exact ⟨t, hstep.trans ht, hsame.of_setPending, hpending, hresp, toInt_lowByte v ▸ hholds⟩
  · subst hresid
    obtain ⟨t, ht, hsame, hpending, hresp, hholds⟩ := writeSlot_resid (s.setPending rest) i v
    exact ⟨t, hstep.trans ht, hsame.of_setPending, hpending, hresp, hholds⟩

end Sys2Proof.Machine
end

section
/-! The two registers of the window that are no array: `STATUS` (R60) and `CONFIG` (R61). -/

namespace Sys2Proof.Machine

/-- Concatenation places the left word above the right one. -/
theorem toNat_append_eq_add {m n : Nat} (x : BitVec m) (y : BitVec n) :
    (x ++ y).toNat = x.toNat * 2 ^ n + y.toNat := by
  rw [BitVec.toNat_append, ← Nat.shiftLeft_add_eq_or_of_lt y.isLt, Nat.shiftLeft_eq]

/-- R60: the fields of `STATUS` at their places; the reserved bits are 0. -/
theorem statusWord_toNat (st : Status) : (statusWord st).toNat =
    st.lastErr.toNat + 256 * st.errSticky.toNat + 512 * st.busErrSticky.toNat := by
  simp only [statusWord, toNat_append_eq_add, BitVec.toNat_ofBool, BitVec.toNat_ofNat]
  omega

/-- R61: the fields of `CONFIG` at their places; `TL_LEN` fits its 17 bits. -/
theorem configWord_toNat {p : Params} (hlen : p.tlLen ≤ 65536) :
    (configWord p).toNat = 0x01000000 + p.tlLen := by
  simp only [configWord, toNat_append_eq_add, BitVec.toNat_ofNat]
  omega

theorem and_not_getLsbD (b : Bool) (v : Word) (i : Nat) :
    (b && !v.getLsbD i) = if v.toNat / 2 ^ i % 2 = 1 then false else b := by
  rw [BitVec.getLsbD, Nat.testBit_eq_decide_div_mod_eq]
  split_ifs with h <;> simp [h]

/-- R60: a written 1 in bit 8 or 9 clears that sticky bit. -/
theorem statusWrite_eq (v : Word) (st : Status) : statusWrite v st =
    { lastErr := st.lastErr
      errSticky := if v.toNat / 256 % 2 = 1 then false else st.errSticky
      busErrSticky := if v.toNat / 512 % 2 = 1 then false else st.busErrSticky } := by
  rw [statusWrite, and_not_getLsbD, and_not_getLsbD]
  rfl

/-- Settles O42: `STATUS` is mapped for every `TL_LEN`; its write and its read are `statusWrite_eq`
and `statusWord_toNat`. -/
theorem statusSlotReadAndClear : Obligations.StatusSlotReadAndClear := by
  unfold Obligations.StatusSlotReadAndClear
  intro s rest
  refine ⟨fun v hp => ?_, fun hp => ?_⟩
  · rw [step_write_of_mapped (k := .status) (by decide) trivial hp, writeSlot, statusWrite_eq]
    rfl
  · exact ⟨statusWord s.status, statusWord_toNat s.status,
      step_read_of_mapped (k := .status) (by decide) trivial hp⟩

/-- Settles O43: `CONFIG` reads as `configWord_toNat` says and takes no write. -/
theorem configSlotReadsTlLen : Obligations.ConfigSlotReadsTlLen := by
  unfold Obligations.ConfigSlotReadsTlLen
  intro s rest hlen
  exact ⟨fun hp => ⟨configWord s.params, configWord_toNat hlen,
    step_read_of_mapped (k := .config) (by decide) trivial hp⟩, fun v hp => step_write_config hp⟩

end Sys2Proof.Machine
end

section
/-! The fields of a command word as arithmetic on its value (R80, R87), and the examples of R93. -/

namespace Sys2Proof.Machine

theorem getLsbD_eq_decide_div_mod (w : Word) (i : Nat) :
    w.getLsbD i = decide (w.toNat / 2 ^ i % 2 = 1) :=
  Nat.testBit_eq_decide_div_mod_eq

/-- R86: `MBOFFX` is the whole upper half of the word, so nothing above it is cut off. -/
theorem mbOffX_field_eq (w : Word) : field 16 16 w = w.toNat / 65536 := by
  rw [field_eq]
  omega

/-- R80, R87: the operands of a command word, computed from its value. -/
theorem decodeOperands_eq (w : Word) : decodeOperands w =
    { la := decide (w.toNat / 16 % 2 = 1)
      ta := decide (w.toNat / 32 % 2 = 1)
      tra := decide (w.toNat / 64 % 2 = 1)
      blkX := 4 * (w.toNat / 256 % 4)
      blkY := 4 * (w.toNat / 1024 % 4)
      mbOffX := w.toNat / 65536 } := by
  rw [decodeOperands, mbOffX_field_eq, field_eq, field_eq, getLsbD_eq_decide_div_mod,
    getLsbD_eq_decide_div_mod, getLsbD_eq_decide_div_mod]
  rfl

/-- R84, R87: `band` undoes the scaling of `BY` by 4. -/
theorem band_eq_of_blkY_eq {o : Operands} {n : Nat} (h : o.blkY = 4 * n) : band o = n := by
  rw [band, h, Nat.mul_div_cancel_left n (by decide)]

/-- Settles O25: a word that decodes has its own fields as mode and operands, and these are
`decodeOperands_eq`; of the derived operands only `band` is not its formula by definition. -/
theorem fieldsOfACommandWord : Obligations.FieldsOfACommandWord := by
  unfold Obligations.FieldsOfACommandWord
  intro w i h
  obtain ⟨-, -, hmode, hoperands⟩ := decodeWord_eq_instr h
  rw [field_eq 0 4 w, pow_zero, Nat.div_one] at hmode
  rw [hoperands, decodeOperands_eq]
  exact ⟨hmode, rfl, rfl, rfl, rfl, rfl, rfl, rfl, band_eq_of_blkY_eq rfl, rfl⟩

/-- Settles O26: the ten rows of R93 are closed facts, and the decoder computes each of them. -/
theorem encodingExamplesDecode : Obligations.EncodingExamplesDecode := by
  unfold Obligations.EncodingExamplesDecode
  decide

end Sys2Proof.Machine
end

section
/-! What an accepted command leaves (R107 to R112), for every mode at once: the kernel a command runs
agrees with the words of the statements (R103, R105, R176), and the pipeline's laws give the rest. -/

namespace Sys2Proof.Machine

/-- R107: the index of column `x`, row `y`, with the row's number in the plane written out. -/
theorem pixIndex_eq (o : Operands) (x y : Nat) : pixIndex o x y = 16 * (o.blkY + y) + o.blkX + x := by
  rw [pixIndex]
  omega

/-- R103: the kernel a command runs reads the cells of its mode's row. -/
theorem reads_kernelOf (i : Instr) : (kernelOf i).reads i.operands = readSet i := by
  cases i <;> rfl

/-- R105: a kernel misses a neighbour when the flags do not meet its mode's requirement. -/
theorem missingNeighbour_kernelOf (i : Instr) :
    missingNeighbour (kernelOf i) i.operands = !requirementMet i := by
  cases i <;> simp [missingNeighbour, kernelOf, requirementMet, Instr.operands, kernelV, kernelH,
    kernelDc, kernelDdl, kernelDdr, kernelVr, kernelHd, kernelVl, kernelHu]

/-- R176: the index the range test looks at is one the command touches. -/
theorem topReach_mem_touched (i : Instr) : (kernelOf i).topReach i.operands ∈ touched i := by
  cases i with
  | predDdl o | predVl o =>
    cases htra : o.tra <;> simp [kernelOf, kernelDdl, kernelVl, touched, Instr.operands, htra]
  | _ => exact (by decide : 3 ∈ [0, 1, 2, 3])

/-- R33: a command reads poison by the kernel's test exactly when its read set or a residual holds it. -/
theorem readsPoison_kernelOf_eq_false {i : Instr} {s : State} :
    readsPoison (kernelOf i) i.operands s = false ↔ ¬ ReadsPoison i s := by
  rw [readsPoison_eq_false, reads_kernelOf]
  simp only [ReadsPoison, not_or, not_exists, not_and, ne_eq]

/-- R104: no output is drawn under `cache`, nor when the mode's requirement is met. -/
theorem drawsOutputs_kernelOf_eq_false {i : Instr} {s : State} (h : NoDraw s (requirementMet i)) :
    drawsOutputs (kernelOf i) i.operands s = false := by
  rw [drawsOutputs, missingNeighbour_kernelOf]
  obtain hcache | hmet := h
  · rw [hcache]; rfl
  · rw [hmet, Bool.not_true, Bool.and_false]

/-- R101, R172: a command in range is accepted by the kernel of its mode. -/
theorem exec_of_inRange {i : Instr} {s : State} (h : InRange i s) :
    exec i s = .next (acceptCommand (kernelOf i) i.operands s) := by
  rw [exec_eq_predict]
  exact predict_of_inRange _ _ _ (h _ (topReach_mem_touched i))

/-- R107 to R111: every kernel leaves a block of its own outputs and the caches they update, and
nothing else is written. -/
theorem accepted_acceptCommand (k : Kernel) (o : Operands) (s : State)
    {good : Nat → Nat → Entry 8 → Prop} (hgood : ∀ x < 4, ∀ y < 4, good x y (outEntry k o s x y)) :
    Accepted o s (acceptCommand k o s) (cornerEntry k o s) good where
  output x hx y hy := by
    rw [← pixIndex_eq, acceptCommand_pixOutAt k o s hx hy]
    exact hgood x hx y hy
  left y hy := by
    rw [← pixIndex_eq, acceptCommand_pixOutAt k o s (by decide) hy, acceptCommand_leftRowAt k o s hy]
  top x hx := by
    rw [← pixIndex_eq, acceptCommand_pixOutAt k o s hx (by decide)]
    exact acceptCommand_topLineAt k o s hx
  corner := acceptCommand_topLeftAt k o s
  status := rfl
  outputFrame a ha := acceptCommand_pixOutAt_of_ne k o s fun x y hx hy =>
    pixIndex_eq o x y ▸ ha x hx y hy
  leftFrame a ha := acceptCommand_leftRowAt_of_ne k o s ha
  cornerFrame a ha := acceptCommand_topLeftAt_of_ne k o s ha
  topFrame a ha := acceptCommand_topLineAt_of_ne k o s ha
  residFrame := rfl
  restFrame := ⟨rfl, rfl, rfl, rfl⟩

/-- Settles O45: the command is accepted by the kernel of its mode, whose outputs are R106's values
when it neither reads poison nor draws, and whose corner update is then the old `TOPLINE[to + 3]`. -/
theorem cacheUpdateInvariantHoldsInEveryMode : Obligations.CacheUpdateInvariantHoldsInEveryMode := by
  unfold Obligations.CacheUpdateInvariantHoldsInEveryMode
  intro i s hrange hclean hdraw
  have hpoison := readsPoison_kernelOf_eq_false.2 hclean
  have hdrawn := drawsOutputs_kernelOf_eq_false hdraw
  have hcorner : cornerEntry (kernelOf i) i.operands s = oldCorner i.operands s :=
    cornerEntry_of_values _ _ _ hpoison
  refine ⟨_, exec_of_inRange hrange, hcorner ▸ accepted_acceptCommand _ _ _ fun x _ y _ => ?_⟩
  rw [outEntry_of_values _ _ _ hpoison hdrawn]
  exact nofun

end Sys2Proof.Machine
end

section
/-! The nine modes (R130 to R138).  One law serves them all: a command whose kernel reads only values
and draws none `Predicts` the entries of its kernel's table.  Each mode is then left with the cells it
reads and with its table, compared entry by entry with the equations of its rule. -/

namespace Sys2Proof.Machine

variable {o : Operands} {s : State} {T L R : Nat → Int} {Q : Int} {n i j : Nat}

/-! ### The law of all modes -/

/-- The predictor given by an equation for `P[y][x]`, laid out as the rules print it: row by row. -/
def tableOf (P : Nat → Nat → Int) : Table :=
  [[P 0 0, P 1 0, P 2 0, P 3 0],
   [P 0 1, P 1 1, P 2 1, P 3 1],
   [P 0 2, P 1 2, P 2 2, P 3 2],
   [P 0 3, P 1 3, P 2 3, P 3 3]]

theorem tableAt_tableOf (P : Nat → Nat → Int) {x y : Nat} (hx : x < 4) (hy : y < 4) :
    tableAt (tableOf P) x y = P x y := by
  interval_cases y <;> interval_cases x <;> rfl

/-- R7 (a): a clipped value is stored as it is. -/
theorem holds_sampleEntry_clip8 (v : Int) : Holds (sampleEntry (clip8 v)) (clip8 v) :=
  ⟨sampleEntry_ne_poison _, entryInt_sampleEntry_clip8 v⟩

/-- R106: the entry a command writes when it reads only values and draws none. -/
theorem holds_outEntry {k : Kernel} {x y : Nat} {r p : Int}
    (hpoison : readsPoison k o s = false) (hdrawn : drawsOutputs k o s = false)
    (hresid : entryInt (s.residAt (4 * y + x)) = r)
    (htable : tableAt (k.table o (neighbours o s)) x y = p) :
    Holds (outEntry k o s x y) (min 127 (max (-128) (r + p))) := by
  subst hresid htable
  rw [outEntry_of_values _ _ _ hpoison hdrawn]
  exact holds_sampleEntry_clip8 _

/-- R100, R106, R176: a command whose kernel reads only values and draws none predicts what the
kernel's table holds. -/
theorem predicts_of_table {i : Instr} {P : Nat → Nat → Int}
    (hreads : ∀ c ∈ (kernelOf i).reads i.operands, neighbourEntry i.operands s c ≠ .poison)
    (hresid : ResidIs s R) (hdraw : NoDraw s (requirementMet i))
    (htable : (kernelOf i).table i.operands (neighbours i.operands s) = tableOf P) :
    Predicts i s (topIndex i.operands + (kernelOf i).topReach i.operands) R P := by
  rw [Predicts, exec_eq_predict]
  refine ⟨fun hrange => ?_, predict_of_not_inRange _ _ _⟩
  have hpoison : readsPoison (kernelOf i) i.operands s = false :=
    (readsPoison_eq_false _ _ _).2 ⟨hreads, fun j hj => (hresid j hj).1⟩
  have hcorner : cornerEntry (kernelOf i) i.operands s = oldCorner i.operands s :=
    cornerEntry_of_values _ _ _ hpoison
  refine ⟨_, predict_of_inRange _ _ _ hrange,
    hcorner ▸ accepted_acceptCommand _ _ _ fun x hx y hy => ?_⟩
  exact holds_outEntry hpoison (drawsOutputs_kernelOf_eq_false hdraw)
    (hresid (4 * y + x) (by omega)).2 (htable ▸ tableAt_tableOf P hx hy)

/-! ### The samples of R102 that the premises give -/

theorem topSample_of_topIs (h : TopIs o s T n) (hn : n ≤ 4) (hi : i < n) : topSample o s i = T i := by
  rw [topSample, if_pos (hi.trans_le hn)]
  exact (h i hi).2

/-- R102: the top-right samples, read or replicated. -/
theorem topSample_of_topRightIs (h : TopIs o s T 4) (hright : TopRightIs o s T n) (hi : i < n) :
    topSample o s i = T i := by
  by_cases hrow : i < 4
  · exact topSample_of_topIs h le_rfl hrow
  · have hcell := hright i hi (not_lt.1 hrow)
    rw [topSample, if_neg hrow]
    split_ifs at hcell ⊢
    · exact hcell.2
    · exact hcell ▸ (h 3 (by decide)).2

theorem leftSample_of_leftIs (h : LeftIs o s L n) (hj : j < n) : leftSample o s j = L j :=
  (h j hj).2

theorem cornerSample_of_cornerIs (h : CornerIs o s Q) : cornerSample o s = Q := h.2

/-! ### The cells of R103 that hold values -/

theorem top_ne_poison (h : TopIs o s T n) :
    ∀ c ∈ (List.range n).map Neighbour.top, neighbourEntry o s c ≠ .poison :=
  List.forall_mem_map.2 fun i hi => (h i (List.mem_range.1 hi)).1

theorem left_ne_poison (h : LeftIs o s L n) :
    ∀ c ∈ (List.range n).map Neighbour.left, neighbourEntry o s c ≠ .poison :=
  List.forall_mem_map.2 fun j hj => (h j (List.mem_range.1 hj)).1

/-- Cells that are read only with a flag need hold values only with that flag. -/
theorem ne_poison_of_flag {b : Bool} {l : List Neighbour}
    (h : b = true → ∀ c ∈ l, neighbourEntry o s c ≠ .poison) :
    ∀ c ∈ if b then l else [], neighbourEntry o s c ≠ .poison := by
  cases b with
  | false => exact List.forall_mem_nil _
  | true => exact h rfl

theorem topRight_ne_poison (h : TopRightIs o s T (4 + n)) (htra : o.tra = true) :
    ∀ c ∈ (List.range' 4 n).map Neighbour.top, neighbourEntry o s c ≠ .poison := by
  refine List.forall_mem_map.2 fun i hi => ?_
  obtain ⟨hlow, hhigh⟩ := List.mem_range'_1.1 hi
  have hcell := h i hhigh hlow
  rw [if_pos htra] at hcell
  exact hcell.1

/-! ### The copy and average modes -/

/-- Settles O1: the mode reads the row above, and every row of its table is that row. -/
theorem verticalPredictsFromTopRow : Obligations.VerticalPredictsFromTopRow := by
  unfold Obligations.VerticalPredictsFromTopRow
  intro o s T R htop hresid hdraw
  refine predicts_of_table (i := .predV o) (top_ne_poison htop) hresid hdraw ?_
  change tableV (neighbours o s) = _
  simp [tableV, tableOf, neighbours, topSample_of_topIs htop]

/-- Settles O2: the mode reads the column to the left, and every column of its table is that column. -/
theorem horizontalPredictsFromLeftColumn : Obligations.HorizontalPredictsFromLeftColumn := by
  unfold Obligations.HorizontalPredictsFromLeftColumn
  intro o s L R hleft hresid hdraw
  refine predicts_of_table (i := .predH o) (left_ne_poison hleft) hresid hdraw ?_
  change tableH (neighbours o s) = _
  simp [tableH, tableOf, neighbours, leftSample_of_leftIs hleft]

theorem leftSum_neighbours (h : LeftIs o s L 4) :
    leftSum (neighbours o s) = L 0 + L 1 + L 2 + L 3 := by
  simp [leftSum, neighbours, leftSample_of_leftIs h]

theorem topSum_neighbours (h : TopIs o s T 4) :
    topSum (neighbours o s) = T 0 + T 1 + T 2 + T 3 := by
  simp [topSum, neighbours, topSample_of_topIs h]

/-- R132: the DC value by the flags; a sum is looked at only if its flag is 1. -/
theorem dcValue_eq {la ta : Bool} {m : Neighbours} {SL ST : Int}
    (hleft : la = true → leftSum m = SL) (htop : ta = true → topSum m = ST) :
    dcValue la ta m =
      if la = true ∧ ta = true then (SL + ST + 4) / 8
      else if la = true then (SL + 2) / 4
      else if ta = true then (ST + 2) / 4
      else 0 := by
  cases la with
  | false =>
    cases ta with
    | false => rfl
    | true => simp [dcValue, htop]
  | true =>
    cases ta with
    | false => simp [dcValue, hleft]
    | true => simp [dcValue, hleft, htop]

/-- Settles O3: the table is constant, and its value is the average of the sums that the flags
select. -/
theorem dcPredictsAverageByFlags : Obligations.DcPredictsAverageByFlags := by
  unfold Obligations.DcPredictsAverageByFlags
  intro o s T L R htop hleft hresid
  have hreads : ∀ c ∈ kernelDc.reads o, neighbourEntry o s c ≠ .poison :=
    List.forall_mem_append.2 ⟨ne_poison_of_flag fun hla => left_ne_poison (hleft hla),
      ne_poison_of_flag fun hta => top_ne_poison (htop hta)⟩
  refine predicts_of_table (i := .predDc o) hreads hresid (.inr rfl) ?_
  rw [← dcValue_eq (fun hla => leftSum_neighbours (hleft hla))
    fun hta => topSum_neighbours (htop hta)]
  rfl

/-! ### The modes that read the top-right row -/

/-- Settles O4: T4 to T7 are read or replicated, and the table's entries depend on `x + y` alone. -/
theorem downLeftPredictsAlongAntiDiagonals : Obligations.DownLeftPredictsAlongAntiDiagonals := by
  unfold Obligations.DownLeftPredictsAlongAntiDiagonals
  intro o s T R htop hright hresid hdraw
  have hreads : ∀ c ∈ kernelDdl.reads o, neighbourEntry o s c ≠ .poison :=
    List.forall_mem_append.2 ⟨top_ne_poison htop,
      ne_poison_of_flag (topRight_ne_poison (n := 4) hright)⟩
  refine predicts_of_table (i := .predDdl o) hreads hresid hdraw ?_
  change tableDdl (neighbours o s) = _
  simp [tableDdl, tableOf, neighbours, avg3_eq, topSample_of_topRightIs htop hright]

/-- Settles O8: T4 to T6 are read or replicated, and the table's even rows are 2-tap averages, its odd
rows 3-tap averages. -/
theorem verticalLeftPredictsByRowParity : Obligations.VerticalLeftPredictsByRowParity := by
  unfold Obligations.VerticalLeftPredictsByRowParity
  intro o s T R htop hright hresid hdraw
  have hreads : ∀ c ∈ kernelVl.reads o, neighbourEntry o s c ≠ .poison :=
    List.forall_mem_append.2 ⟨top_ne_poison htop,
      ne_poison_of_flag (topRight_ne_poison (n := 3) hright)⟩
  refine predicts_of_table (i := .predVl o) hreads hresid hdraw ?_
  change tableVl (neighbours o s) = _
  simp [tableVl, tableOf, neighbours, topSample_of_topRightIs htop hright]

/-! ### The modes that read the corner -/

/-- Settles O5: the mode reads both rows of neighbours and the corner between them, and the table's
entries depend on `x - y` alone. -/
theorem downRightPredictsAlongDiagonals : Obligations.DownRightPredictsAlongDiagonals := by
  unfold Obligations.DownRightPredictsAlongDiagonals
  intro o s T L R Q htop hleft hcorner hresid hdraw
  have hreads : ∀ c ∈ kernelDdr.reads o, neighbourEntry o s c ≠ .poison :=
    List.forall_mem_append.2 ⟨List.forall_mem_append.2
      ⟨top_ne_poison htop, List.forall_mem_singleton.2 hcorner.1⟩, left_ne_poison hleft⟩
  refine predicts_of_table (i := .predDdr o) hreads hresid hdraw ?_
  change tableDdr (neighbours o s) = _
  simp [tableDdr, tableOf, neighbours, withCorner,
    topSample_of_topIs htop, leftSample_of_leftIs hleft, cornerSample_of_cornerIs hcorner]

/-- Settles O6: the mode reads no L3, and its table is the equations in `zVR`. -/
theorem verticalRightPredictsByZvr : Obligations.VerticalRightPredictsByZvr := by
  unfold Obligations.VerticalRightPredictsByZvr
  intro o s T L R Q htop hleft hcorner hresid hdraw
  have hreads : ∀ c ∈ kernelVr.reads o, neighbourEntry o s c ≠ .poison :=
    List.forall_mem_append.2 ⟨top_ne_poison htop,
      List.forall_mem_cons.2 ⟨hcorner.1, left_ne_poison hleft⟩⟩
  refine predicts_of_table (i := .predVr o) hreads hresid hdraw ?_
  change tableVr (neighbours o s) = _
  simp [tableVr, tableOf, neighbours, withCorner,
    topSample_of_topIs htop, leftSample_of_leftIs hleft, cornerSample_of_cornerIs hcorner]

/-- Settles O7: the mode's predictor reads no T3, and its table is the equations in `zHD`. -/
theorem horizontalDownPredictsByZhd : Obligations.HorizontalDownPredictsByZhd := by
  unfold Obligations.HorizontalDownPredictsByZhd
  intro o s T L R Q htop hleft hcorner hresid hdraw
  have habove : ∀ c ∈ (List.range 3).map .top ++ [.corner], neighbourEntry o s c ≠ .poison :=
    List.forall_mem_append.2 ⟨top_ne_poison htop, List.forall_mem_singleton.2 hcorner.1⟩
  have hreads : ∀ c ∈ kernelHd.reads o, neighbourEntry o s c ≠ .poison :=
    List.forall_mem_append.2 ⟨habove, left_ne_poison hleft⟩
  refine predicts_of_table (i := .predHd o) hreads hresid hdraw ?_
  change tableHd (neighbours o s) = _
  simp [tableHd, tableOf, neighbours, withCorner,
    topSample_of_topIs htop, leftSample_of_leftIs hleft, cornerSample_of_cornerIs hcorner]

/-! ### Horizontal-Up -/

/-- Settles O9: the mode reads the column to the left, and its table is the equations in `zHU`. -/
theorem horizontalUpPredictsByZhu : Obligations.HorizontalUpPredictsByZhu := by
  unfold Obligations.HorizontalUpPredictsByZhu
  intro o s L R hleft hresid hdraw
  refine predicts_of_table (i := .predHu o) (left_ne_poison hleft) hresid hdraw ?_
  change tableHu (neighbours o s) = _
  simp [tableHu, tableOf, neighbours, leftSample_of_leftIs hleft]

end Sys2Proof.Machine
end

section
/-! The rejection of a command (R170 to R178): R176's range test, and `Check(w)` of R172 as what a write
of `w` to `CMD` does. -/

namespace Sys2Proof.Machine

variable {w : Word} {i : Instr} {e : DecodeError} {s : State}

/-! ### The range test -/

/-- R176: no command touches an index above the one its range test looks at. -/
theorem le_topReach_of_mem_touched {j : Nat} (h : j ∈ touched i) :
    j ≤ (kernelOf i).topReach i.operands := by
  cases i with
  | predDdl o | predVl o =>
    cases htra : o.tra <;>
      simp only [touched, kernelOf, kernelDdl, kernelVl, Instr.operands, htra, if_true,
        Bool.false_eq_true, if_false, List.cons_append, List.nil_append, List.mem_cons,
        List.not_mem_nil, or_false] at h ⊢ <;>
      omega
  | _ => exact (by decide : ∀ j ∈ [0, 1, 2, 3], j ≤ 3) j h

/-- R176: the range test looks at the highest index the command touches, so it tests them all. -/
theorem inRange_iff_topReach_lt :
    InRange i s ↔ topIndex i.operands + (kernelOf i).topReach i.operands < s.params.tlLen :=
  ⟨fun h => h _ (topReach_mem_touched i),
    fun h _ hj => (Nat.add_le_add_left (le_topReach_of_mem_touched hj) _).trans_lt h⟩

/-- R172, R177: a command out of range is rejected with `ERR_RANGE`. -/
theorem exec_of_not_inRange (h : ¬ InRange i s) : exec i s = .next (rejected 4 s) := by
  rw [exec_eq_predict]
  exact predict_of_not_inRange _ _ _ (mt inRange_iff_topReach_lt.2 h)

/-- Settles O10: a command in range is accepted by its kernel, which sets `LAST_ERR` to 0, and one out
of range is rejected. -/
theorem rangeTestDecidesRejection : Obligations.RangeTestDecidesRejection := by
  unfold Obligations.RangeTestDecidesRejection
  exact fun i s => ⟨fun h => ⟨_, exec_of_inRange h, rfl⟩, exec_of_not_inRange⟩

/-! ### `Check(w)` is the decoder's error, then the range test -/

theorem topReach_kernelOf (i : Instr) : (kernelOf i).topReach i.operands =
    if i.mode = 3 ∧ i.operands.tra = true then 7
    else if i.mode = 7 ∧ i.operands.tra = true then 6 else 3 := by
  cases i <;> simp [kernelOf, Instr.mode, Instr.operands, kernelV, kernelH, kernelDc, kernelDdl,
    kernelDdr, kernelVr, kernelHd, kernelVl, kernelHu]

theorem modeInstr_of_gt {m : Nat} {o : Operands} (h : 8 < m) :
    modeInstr m o = .illegal .modeOutOfRange := by
  unfold modeInstr
  split <;> trivial

theorem modeInstr_eq_illegal {m : Nat} {o : Operands} (h : modeInstr m o = .illegal e) :
    e = .modeOutOfRange ∧ 8 < m := by
  obtain hm | hm := Nat.lt_or_ge 8 m
  · rw [modeInstr_of_gt hm] at h
    cases h
    exact ⟨rfl, hm⟩
  · interval_cases m <;> cases h

/-- R89: an illegal word passes the tests before the one it fails. -/
theorem decodeWord_eq_illegal (h : decodeWord w = .illegal e) :
    (e = .reservedClass ∧ field 12 4 w ≠ 0) ∨
    (e = .reservedBit ∧ field 12 4 w = 0 ∧ w.getLsbD 7 = true) ∨
    (e = .modeOutOfRange ∧ field 12 4 w = 0 ∧ w.getLsbD 7 = false ∧ 8 < field 0 4 w) := by
  unfold decodeWord at h
  split_ifs at h with hclass hbit
  · cases h; exact .inl ⟨rfl, hclass⟩
  · cases h; exact .inr (.inl ⟨rfl, not_not.1 hclass, hbit⟩)
  · obtain ⟨he, hmode⟩ := modeInstr_eq_illegal h
    exact .inr (.inr ⟨he, not_not.1 hclass, Bool.eq_false_iff.2 hbit, hmode⟩)

/-- R172: the order of the tests in `Check(w)`, on the fields of the word. -/
theorem checkCode_toNat (tlLen : Nat) (w : Word) : checkCode tlLen w.toNat =
    if field 12 4 w ≠ 0 then 1
    else if w.getLsbD 7 = true then 2
    else if 8 < field 0 4 w then 3
    else if topIndex (decodeOperands w) +
      (if field 0 4 w = 3 ∧ (decodeOperands w).tra = true then 7
       else if field 0 4 w = 7 ∧ (decodeOperands w).tra = true then 6 else 3) ≥ tlLen then 4
    else 0 := by
  rw [decodeOperands_eq, field_eq, field_eq, getLsbD_eq_decide_div_mod]
  simp only [checkCode, topIndex, decide_eq_true_eq, add_ite, pow_zero, Nat.div_one, gt_iff_lt]
  rfl

theorem checkCode_of_illegal (tlLen : Nat) (h : decodeWord w = .illegal e) :
    checkCode tlLen w.toNat = (errorCode e).toNat := by
  rw [checkCode_toNat]
  obtain ⟨rfl, hclass⟩ | ⟨rfl, hclass, hbit⟩ | ⟨rfl, hclass, hbit, hmode⟩ := decodeWord_eq_illegal h
  · rw [if_pos hclass]; rfl
  · rw [if_neg (not_not.2 hclass), if_pos hbit]; rfl
  · rw [if_neg (not_not.2 hclass), if_neg (Bool.eq_false_iff.1 hbit), if_pos hmode]; rfl

theorem checkCode_of_instr (tlLen : Nat) (h : decodeWord w = .instr i) :
    checkCode tlLen w.toNat =
      if topIndex i.operands + (kernelOf i).topReach i.operands ≥ tlLen then 4 else 0 := by
  obtain ⟨hclass, hbit, hmode, hoperands⟩ := decodeWord_eq_instr h
  have hlegal : ¬ 8 < field 0 4 w := hmode ▸ (mode_le i).not_gt
  rw [checkCode_toNat, if_neg (not_not.2 hclass), if_neg (Bool.eq_false_iff.1 hbit),
    if_neg hlegal, topReach_kernelOf, hmode, hoperands]

/-! ### The write of a word to `CMD` -/

/-- R59: a step on a write to `CMD` runs the word written. -/
theorem step_write_cmd {rest : List HostEvent}
    (hp : s.pending = .write (s.params.base + 0x00000) 4 w :: rest) :
    step s = runCommand w ((s.setPending rest).answer writeDone) :=
  step_write_of_mapped (k := .cmd) (by decide) trivial hp

/-- R172: `Check(w)` decides whether a command is accepted, and is its code if it is not. -/
theorem runCommand_check (w : Word) (s : State) :
    (checkCode s.params.tlLen w.toNat = 0 ∧
      ∃ k o, runCommand w s = .next (acceptCommand k o (s.setCmd w))) ∨
    (checkCode s.params.tlLen w.toNat ≠ 0 ∧ ∃ c : BitVec 4,
      c.toNat = checkCode s.params.tlLen w.toNat ∧ runCommand w s = .next ((s.setCmd w).reject c)) := by
  cases hd : decodeWord w with
  | illegal e =>
    rw [checkCode_of_illegal _ hd]
    exact .inr ⟨by cases e <;> decide, errorCode e, rfl, by rw [runCommand, hd]⟩
  | instr i =>
    have hrun : runCommand w s = predict (kernelOf i) i.operands (s.setCmd w) := by
      rw [runCommand, hd, ← exec_eq_predict]
    rw [checkCode_of_instr _ hd, hrun]
    by_cases hrange : topIndex i.operands + (kernelOf i).topReach i.operands < s.params.tlLen
    · rw [if_neg hrange.not_ge]
      exact .inl ⟨rfl, _, _, predict_of_inRange _ _ _ hrange⟩
    · rw [if_pos (not_lt.1 hrange)]
      exact .inr ⟨by decide, errRange, rfl, predict_of_not_inRange _ _ _ hrange⟩

/-- Settles O29: the step runs the word, and `runCommand_check` says what that leaves: an accepted
command sets `LAST_ERR` to 0, and a rejected one has changed nothing but `STATUS`. -/
theorem lastErrIsCheckOfTheWord : Obligations.LastErrIsCheckOfTheWord := by
  unfold Obligations.LastErrIsCheckOfTheWord
  intro s w rest hp
  rw [step_write_cmd hp]
  obtain ⟨hcode, k, o, hrun⟩ | ⟨hcode, c, hc, hrun⟩ :=
    runCommand_check w ((s.setPending rest).answer writeDone)
  · exact ⟨_, hrun, rfl, hcode.symm, fun hne => absurd hcode hne, fun _ => ⟨rfl, rfl⟩⟩
  · exact ⟨_, hrun, rfl, hc, fun _ => rfl, fun hzero => absurd hzero hcode⟩

end Sys2Proof.Machine
end

section
/-! The decoder and the encoder as inverses of each other (R80 to R90): both are read as arithmetic on
the value of the word. -/

namespace Sys2Proof.Machine

variable {w : Word} {i : Instr}

/-- R80: each field of a well-formed command stands whole at its place in the word. -/
theorem encode_toNat (hi : i.WellFormed) : (encode i).toNat =
    i.operands.mbOffX * 65536 + i.operands.blkY / 4 * 1024 + i.operands.blkX / 4 * 256
      + i.operands.tra.toNat * 64 + i.operands.ta.toNat * 32 + i.operands.la.toNat * 16 + i.mode := by
  obtain ⟨⟨-, hx⟩, ⟨-, hy⟩, hmb⟩ := hi
  have hmode := mode_le i
  simp only [encode, toNat_append_eq_add, BitVec.toNat_ofBool, BitVec.toNat_ofNat]
  omega

/-- R88, R89: a word that passes the first two tests is decoded by its mode. -/
theorem decodeWord_of_fields (hclass : field 12 4 w = 0) (hbit : w.getLsbD 7 = false) :
    decodeWord w = modeInstr (field 0 4 w) (decodeOperands w) := by
  rw [decodeWord, if_neg (not_not.2 hclass), hbit, if_neg Bool.false_ne_true]

/-- R81: each of the mode codes 0 to 8 names a command. -/
theorem exists_modeInstr_of_le {m : Nat} (h : m ≤ 8) (o : Operands) :
    ∃ i, modeInstr m o = .instr i ∧ i.mode = m := by
  interval_cases m <;> exact ⟨_, rfl, rfl⟩

/-- R82: a flag's bit, read back from the value of a word that holds it. -/
theorem decide_toNat_eq_one (b : Bool) : decide (b.toNat = 1) = b := by
  cases b <;> rfl

theorem decodeOperands_encode (hi : i.WellFormed) : decodeOperands (encode i) = i.operands := by
  have hmode := mode_le i
  have hword := encode_toNat hi
  obtain ⟨⟨hx4, hx⟩, ⟨hy4, hy⟩, hmb⟩ := hi
  rw [decodeOperands_eq, hword]
  generalize i.operands = o at *
  have hla := o.la.toNat_lt
  have hta := o.ta.toNat_lt
  have htra := o.tra.toNat_lt
  congr 1
  · exact (decide_eq_decide.2 (by omega)).trans (decide_toNat_eq_one o.la)
  · exact (decide_eq_decide.2 (by omega)).trans (decide_toNat_eq_one o.ta)
  · exact (decide_eq_decide.2 (by omega)).trans (decide_toNat_eq_one o.tra)
  all_goals omega

/-- Settles O21: the word's two fixed fields are 0, its mode and its operands are the command's, and
these determine the command. -/
theorem decodeOfEncodeIsTheCommand : Obligations.DecodeOfEncodeIsTheCommand := by
  unfold Obligations.DecodeOfEncodeIsTheCommand
  intro i hi
  have hmodeLe := mode_le i
  have hword := encode_toNat hi
  have hla := i.operands.la.toNat_lt
  have hta := i.operands.ta.toNat_lt
  have htra := i.operands.tra.toNat_lt
  obtain ⟨⟨-, hx⟩, ⟨-, hy⟩, -⟩ := id hi
  have hclass : field 12 4 (encode i) = 0 := by rw [field_eq, hword]; omega
  have hbit : (encode i).getLsbD 7 = false := by
    rw [getLsbD_eq_decide_div_mod, hword, decide_eq_false_iff_not]
    omega
  have hmode : field 0 4 (encode i) = i.mode := by rw [field_eq, hword]; omega
  rw [decodeWord_of_fields hclass hbit, hmode, decodeOperands_encode hi, modeInstr_mode]

/-- R88: a decoded command is one the assembler can write. -/
theorem wellFormed_of_decodeWord (h : decodeWord w = .instr i) : i.WellFormed := by
  obtain ⟨-, -, -, hoperands⟩ := decodeWord_eq_instr h
  rw [Instr.WellFormed, hoperands]
  exact decodeOperands_wellFormed w

/-- R82: a flag of the operands, put back at its place. -/
theorem toNat_decide_mod_two (n : Nat) : (decide (n % 2 = 1)).toNat = n % 2 := by
  obtain h | h := Nat.mod_two_eq_zero_or_one n <;> simp [h]

/-- Settles O22: the fields the decoder reads, and the two it tests to be 0, are all of the word. -/
theorem encodeOfDecodeIsTheWord : Obligations.EncodeOfDecodeIsTheWord := by
  unfold Obligations.EncodeOfDecodeIsTheWord
  intro w i h
  have hi := wellFormed_of_decodeWord h
  refine ⟨hi, BitVec.eq_of_toNat_eq ?_⟩
  obtain ⟨hclass, hbit, hmode, hoperands⟩ := decodeWord_eq_instr h
  rw [field_eq] at hclass hmode
  rw [getLsbD_eq_decide_div_mod, decide_eq_false_iff_not] at hbit
  rw [encode_toNat hi, hmode, hoperands, decodeOperands_eq]
  simp only [toNat_decide_mod_two]
  omega

/-- A mask that covers a field leaves it. -/
theorem field_and {lo len : Nat} {mask : Word} (h : mask.extractLsb' lo len = BitVec.allOnes len) :
    field lo len (w &&& mask) = field lo len w := by
  rw [field, BitVec.extractLsb'_and, h, BitVec.and_allOnes, field]

/-- R88: the fixed bits of an encoding are those of its mode, in every mode. -/
theorem fixedBits (i : Instr) : Laws.FixedBits.Statement i :=
  (Laws.fixedBits_picture ..).trans (by cases i <;> rfl)

/-- Settles O23: the mask covers the three fields the decoder tests, so a match fixes them; and a word
that decodes is its command's encoding, whose fixed bits are the mode. -/
theorem maskAndMatchSelectTheMode : Obligations.MaskAndMatchSelectTheMode := by
  unfold Obligations.MaskAndMatchSelectTheMode
  intro w m hm
  constructor
  · intro hmatch
    have hclass : field 12 4 w = 0 := by
      rw [← field_and (mask := 0x0000F08F#32) (by decide), hmatch, field_eq, BitVec.toNat_ofNat]
      omega
    have hmode : field 0 4 w = m := by
      rw [← field_and (mask := 0x0000F08F#32) (by decide), hmatch, field_eq, BitVec.toNat_ofNat]
      omega
    have hbit : w.getLsbD 7 = false := by
      have h := congrArg (BitVec.getLsbD · 7) hmatch
      have hmask : (0x0000F08F#32).getLsbD 7 = true := by decide
      simp only [BitVec.getLsbD_and, hmask, Bool.and_true] at h
      rw [h, getLsbD_eq_decide_div_mod, decide_eq_false_iff_not, BitVec.toNat_ofNat]
      omega
    rw [decodeWord_of_fields hclass hbit, hmode]
    exact exists_modeInstr_of_le hm _
  · rintro ⟨i, hdecode, rfl⟩
    obtain ⟨-, rfl⟩ := encodeOfDecodeIsTheWord w i hdecode
    exact fixedBits i

/-- Settles O24: the decoder makes R89's tests in this order, each on its field of the word. -/
theorem illegalWordsByFirstFailingTest : Obligations.IllegalWordsByFirstFailingTest := by
  unfold Obligations.IllegalWordsByFirstFailingTest
  intro w
  have hclass : field 12 4 w = w.toNat / 4096 % 16 := field_eq ..
  have hbit : w.getLsbD 7 = decide (w.toNat / 128 % 2 = 1) := getLsbD_eq_decide_div_mod ..
  have hmode : field 0 4 w = w.toNat % 16 := by rw [field_eq, pow_zero, Nat.div_one]; rfl
  have hlegal (h0 : w.toNat / 4096 % 16 = 0) (h1 : w.toNat / 128 % 2 = 0) :
      decodeWord w = modeInstr (w.toNat % 16) (decodeOperands w) :=
    hmode ▸ decodeWord_of_fields (hclass.trans h0) (hbit.trans (by simp [h1]))
  refine ⟨fun h0 => ?_, fun h0 h1 => ?_, fun h0 h1 hgt => ?_, fun h0 h1 hle => ?_⟩
  · rw [decodeWord, hclass, if_pos h0]
  · rw [decodeWord, hclass, if_neg (not_not.2 h0), hbit, if_pos (decide_eq_true h1)]
  · rw [hlegal h0 h1, modeInstr_of_gt hgt]
  · obtain ⟨i, hi, -⟩ := exists_modeInstr_of_le hle (decodeOperands w)
    exact ⟨i, (hlegal h0 h1).trans hi⟩

end Sys2Proof.Machine
end

section
/-! The signed samples as the standard's unsigned ones lowered by 128 (R141). -/

namespace Sys2Proof.Machine

/-- R141: every DC average with at least one neighbour divides by the number of its samples, so lowering
them all by 128 lowers the average by 128. -/
theorem dcValue_sub_128 (la ta : Bool) (n : Neighbours) (h : (la || ta) = true) :
    dcValue la ta { n with
      t0 := n.t0 - 128, t1 := n.t1 - 128, t2 := n.t2 - 128, t3 := n.t3 - 128,
      l0 := n.l0 - 128, l1 := n.l1 - 128, l2 := n.l2 - 128, l3 := n.l3 - 128 } =
    dcValue la ta n - 128 := by
  match la, ta with
  | false, false => exact absurd h (by decide)
  | true, true => simp only [dcValue, leftSum, topSum, shr_three]; omega
  | true, false => simp only [dcValue, leftSum, shr_two]; omega
  | false, true => simp only [dcValue, topSum, shr_two]; omega

/-- Settles O20: each average divides by the sum of its weights, and both clips are to 256 values. -/
theorem signedArithmeticIsUnsignedMinus128 : Obligations.SignedArithmeticIsUnsignedMinus128 := by
  unfold Obligations.SignedArithmeticIsUnsignedMinus128
  refine ⟨fun a b => ?_, fun a b c => ?_, fun a b => ?_, dcValue_sub_128, fun r p => ?_⟩
  · rw [avg2_eq, avg2_eq]; omega
  · rw [avg3_eq, avg3_eq]; omega
  · rw [shr_two, shr_two]; omega
  · rw [clip8]; omega

end Sys2Proof.Machine
end

section
/-! What a command does in every state, poison and draws included (R33, R104): the corner update and
the outputs. -/

namespace Sys2Proof.Machine

variable {i : Instr} {k : Kernel} {o : Operands} {s : State}

theorem readsPoison_kernelOf_eq_true :
    readsPoison (kernelOf i) i.operands s = true ↔ ReadsPoison i s := by
  rw [← Bool.not_eq_false, readsPoison_kernelOf_eq_false, not_not]

/-- R33, R108: the corner update of a command, whatever it reads. -/
theorem cornerEntry_kernelOf (i : Instr) (s : State) : cornerEntry (kernelOf i) i.operands s =
    if ReadsPoison i s then .poison else oldCorner i.operands s := by
  split_ifs with h
  · exact cornerEntry_of_poison _ _ _ (readsPoison_kernelOf_eq_true.2 h)
  · exact cornerEntry_of_values _ _ _ (readsPoison_kernelOf_eq_false.2 h)

/-- R104, R106: a command that reads no poison writes none, drawn or not. -/
theorem outEntry_ne_poison (h : readsPoison k o s = false) (x y : Nat) :
    outEntry k o s x y ≠ .poison := by
  rw [outEntry, h, if_neg Bool.false_ne_true]
  split
  · exact nofun
  · exact sampleEntry_ne_poison _

/-- Settles O11: the frame is every kernel's, and the corner is `cornerEntry_kernelOf`. -/
theorem acceptedCommandWritesBlockAndCaches : Obligations.AcceptedCommandWritesBlockAndCaches := by
  unfold Obligations.AcceptedCommandWritesBlockAndCaches
  intro i s hrange
  exact ⟨_, exec_of_inRange hrange, cornerEntry_kernelOf i s ▸
    accepted_acceptCommand _ _ _ fun _ _ _ _ => trivial⟩

/-- Settles O13: with poison among what it reads, a command writes poison to every entry, the corner
among them. -/
theorem poisonReadWritesPoison : Obligations.PoisonReadWritesPoison := by
  unfold Obligations.PoisonReadWritesPoison
  intro i s hrange hreads
  have hpoison := readsPoison_kernelOf_eq_true.2 hreads
  have hcorner := cornerEntry_of_poison _ _ _ hpoison
  have haccepted := accepted_acceptCommand (kernelOf i) i.operands s
    (good := fun _ _ e => e = .poison) fun x _ y _ => outEntry_of_poison _ _ _ hpoison x y
  exact ⟨_, exec_of_inRange hrange, hcorner ▸ haccepted⟩

/-- Settles O14: an output is poison only if the command read poison, so a drawn one is a value; the
frame does not ask how the outputs came about. -/
theorem drawnOutputsAreValues : Obligations.DrawnOutputsAreValues := by
  unfold Obligations.DrawnOutputsAreValues
  intro i s hrange _ _ hclean
  have hpoison := readsPoison_kernelOf_eq_false.2 hclean
  have hcorner : cornerEntry (kernelOf i) i.operands s = oldCorner i.operands s :=
    cornerEntry_of_values _ _ _ hpoison
  exact ⟨_, exec_of_inRange hrange, hcorner ▸
    accepted_acceptCommand _ _ _ fun x _ y _ => outEntry_ne_poison hpoison x y⟩

end Sys2Proof.Machine
end

section
/-! What the outputs of a command depend on (R103, R104, R106, R114) and what they do not: the flags it
does not read, and `STATUS` (R182). -/

namespace Sys2Proof.Machine

variable {i : Instr} {k : Kernel} {o o' : Operands} {s s' : State}

/-- R33: whether a command reads poison depends on the cells of its row and on the residuals. -/
theorem readsPoison_congr (hreads : k.reads o' = k.reads o)
    (hcells : ∀ c ∈ k.reads o, neighbourEntry o' s' c = neighbourEntry o s c)
    (hresid : ∀ j < 16, s'.residAt j = s.residAt j) :
    readsPoison k o' s' = readsPoison k o s := by
  rw [Bool.eq_iff_iff, ← not_iff_not, Bool.not_eq_true, Bool.not_eq_true, readsPoison_eq_false,
    readsPoison_eq_false, hreads]
  exact and_congr (forall₂_congr fun c hc => by rw [hcells c hc])
    (forall₂_congr fun j hj => by rw [hresid j hj])

/-- R104, R106: all that an output depends on. -/
theorem outEntry_congr {x y : Nat} (hx : x < 4) (hy : y < 4)
    (hpoison : readsPoison k o' s' = readsPoison k o s)
    (hdrawn : drawsOutputs k o' s' = drawsOutputs k o s) (hdraws : s'.draws = s.draws)
    (hresid : ∀ j < 16, s'.residAt j = s.residAt j)
    (htable : k.table o' (neighbours o' s') = k.table o (neighbours o s)) :
    outEntry k o' s' x y = outEntry k o s x y := by
  rw [outEntry, outEntry, reconstruct, reconstruct, hpoison, hdrawn, hdraws, htable,
    hresid (4 * y + x) (by omega)]

/-- R103: a kernel's predictor looks at the cells of its row only. -/
theorem table_congr
    (h : ∀ c ∈ readSet i, neighbourEntry i.operands s' c = neighbourEntry i.operands s c) :
    (kernelOf i).table i.operands (neighbours i.operands s') =
      (kernelOf i).table i.operands (neighbours i.operands s) := by
  cases i with
  | predV o | predH o | predDdr o | predVr o | predHd o | predHu o =>
    simp only [readSet, List.forall_mem_cons, Instr.operands] at h
    simp [kernelOf, kernelV, tableV, kernelH, tableH, kernelDdr, tableDdr, kernelVr, tableVr,
      kernelHd, tableHd, kernelHu, tableHu, neighbours, topSample, leftSample, cornerSample,
      Instr.operands, h]
  | predDc o =>
    obtain ⟨hleft, htop⟩ := List.forall_mem_append.1 h
    have hsl (hla : o.la = true) : leftSum (neighbours o s') = leftSum (neighbours o s) := by
      simp only [hla, if_true, List.forall_mem_cons, Instr.operands] at hleft
      simp [leftSum, neighbours, leftSample, hleft]
    have hst (hta : o.ta = true) : topSum (neighbours o s') = topSum (neighbours o s) := by
      simp only [hta, if_true, List.forall_mem_cons, Instr.operands] at htop
      simp [topSum, neighbours, topSample, htop]
    have hdc : dcValue o.la o.ta (neighbours o s') = dcValue o.la o.ta (neighbours o s) := by
      rw [dcValue_eq hsl hst, dcValue_eq (fun _ => rfl) fun _ => rfl]
    change tableDc o.la o.ta (neighbours o s') = tableDc o.la o.ta (neighbours o s)
    rw [tableDc, hdc, tableDc]
  | predDdl o | predVl o =>
    obtain ⟨htop, hright⟩ := List.forall_mem_append.1 h
    simp only [List.forall_mem_cons, Instr.operands] at htop
    cases htra : o.tra with
    | false => simp [kernelOf, kernelDdl, tableDdl, kernelVl, tableVl, neighbours, topSample,
        Instr.operands, htra, htop]
    | true =>
      simp only [htra, if_true, List.forall_mem_cons, Instr.operands] at hright
      simp [kernelOf, kernelDdl, tableDdl, kernelVl, tableVl, neighbours, topSample,
        Instr.operands, htra, htop, hright]

/-- Settles O12: both states accept the command, and an output depends on nothing in which they
differ. -/
theorem outputsDependOnReadSetOnly : Obligations.OutputsDependOnReadSetOnly := by
  unfold Obligations.OutputsDependOnReadSetOnly
  intro i s s' hrange hparams hdraws hresid hcells
  have hrange' : InRange i s' := by rwa [InRange, hparams]
  refine ⟨_, _, exec_of_inRange hrange, exec_of_inRange hrange', fun x hx y hy => ?_⟩
  rw [← pixIndex_eq, acceptCommand_pixOutAt _ _ _ hx hy, acceptCommand_pixOutAt _ _ _ hx hy]
  refine outEntry_congr hx hy (readsPoison_congr rfl ?_ hresid) ?_ hdraws hresid (table_congr hcells)
  · rwa [reads_kernelOf]
  · rw [drawsOutputs, drawsOutputs, hparams]

/-! ### The flags -/

/-- The operands of the same block with other flags. -/
def withFlags (o : Operands) (la ta tra : Bool) : Operands := { o with la := la, ta := ta, tra := tra }

/-- The flags are no part of the place of a block or of its neighbour cells. -/
theorem neighbourEntry_withFlags (la ta tra : Bool) (c : Neighbour) :
    neighbourEntry (withFlags o la ta tra) s c = neighbourEntry o s c := by
  cases c <;> rfl

theorem acceptCommand_withFlags {la ta tra : Bool}
    (hout : ∀ x < 4, ∀ y < 4, outEntry k (withFlags o la ta tra) s x y = outEntry k o s x y)
    (hcorner : cornerEntry k (withFlags o la ta tra) s = cornerEntry k o s) :
    acceptCommand k (withFlags o la ta tra) s = acceptCommand k o s := by
  simp (disch := decide) only [acceptCommand, pixWrites, cornerWrites, leftWrites, topWrites, hout,
    hcorner]
  rfl

/-- R104: with nothing drawn, flags that change neither the cells read, nor the predictor, nor the range
test do not change what a command does. -/
theorem predict_withFlags {la ta tra : Bool} (hcache : s.params.unavailableRead = .cache)
    (hreads : k.reads (withFlags o la ta tra) = k.reads o)
    (hreach : k.topReach (withFlags o la ta tra) = k.topReach o)
    (htable : k.table (withFlags o la ta tra) (neighbours (withFlags o la ta tra) s) =
      k.table o (neighbours o s)) :
    predict k (withFlags o la ta tra) s = predict k o s := by
  have hpoison : readsPoison k (withFlags o la ta tra) s = readsPoison k o s :=
    readsPoison_congr hreads (fun c _ => neighbourEntry_withFlags la ta tra c) fun _ _ => rfl
  have hdrawn (o' : Operands) : drawsOutputs k o' s = false := by rw [drawsOutputs, hcache]; rfl
  have hout (x) (hx : x < 4) (y) (hy : y < 4) :=
    outEntry_congr hx hy hpoison ((hdrawn _).trans (hdrawn _).symm) rfl (fun _ _ => rfl) htable
  have hcorner : cornerEntry k (withFlags o la ta tra) s = cornerEntry k o s := by
    rw [cornerEntry, cornerEntry, hpoison]; rfl
  rw [predict, predict, inRange, inRange, hreach, acceptCommand_withFlags hout hcorner]
  rfl

theorem exec_withOperands (i : Instr) (o : Operands) (s : State) :
    exec (withOperands i o) s = predict (kernelOf i) o s := by
  cases i <;> rfl

/-- Settles O15: the kernels but DC's look at neither LA nor TA, and those but DDL's and VL's do not look
at TRA, which moves only the samples T4 to T7. -/
theorem otherFlagsAreNotRead : Obligations.OtherFlagsAreNotRead := by
  unfold Obligations.OtherFlagsAreNotRead
  intro i s la ta tra hcache
  refine ⟨fun hdc => ?_, fun hddl hvl => ?_⟩
  · rw [exec_withOperands, exec_eq_predict]
    refine predict_withFlags (tra := i.operands.tra) hcache ?_ ?_ ?_
    all_goals
      cases i with
      | predDc o => exact absurd rfl hdc
      | _ => rfl
  · rw [exec_withOperands, exec_eq_predict]
    refine predict_withFlags (la := i.operands.la) (ta := i.operands.ta) hcache ?_ ?_ ?_
    all_goals
      cases i with
      | predDdl o => exact absurd rfl hddl
      | predVl o => exact absurd rfl hvl
      | _ => rfl

/-! ### `STATUS` -/

/-- Settles O16: an accepted command leaves LAST_ERR 0 and a rejected one `ERR_RANGE`, and the rest of
what they leave is computed without `STATUS`. -/
theorem statusNeverAffectsCommands : Obligations.StatusNeverAffectsCommands := by
  unfold Obligations.StatusNeverAffectsCommands
  intro i s st
  by_cases hrange : InRange i s
  · exact ⟨_, exec_of_inRange hrange, exec_of_inRange (s := { s with status := st }) hrange⟩
  · exact ⟨_, exec_of_not_inRange hrange, exec_of_not_inRange (s := { s with status := st }) hrange⟩

end Sys2Proof.Machine
end

section
/-! The residual and the predictor (R106): a predictor is in the int8 range, so that a zero residual
shows it. -/

namespace Sys2Proof.Machine

variable {o : Operands} {s : State} {a b c : Int}

/-- The int8 range (R9). -/
def IsSample (v : Int) : Prop := -128 ≤ v ∧ v ≤ 127

theorem isSample_zero : IsSample 0 := ⟨by decide, by decide⟩

/-- R10: an average is between its taps. -/
theorem isSample_avg2 (ha : IsSample a) (hb : IsSample b) : IsSample (avg2 a b) := by
  unfold IsSample at *
  rw [avg2_eq]
  omega

theorem isSample_avg3 (ha : IsSample a) (hb : IsSample b) (hc : IsSample c) : IsSample (avg3 a b c) := by
  unfold IsSample at *
  rw [avg3_eq]
  omega

/-- R133, R138: the average at the end of a row, whose last tap is replicated. -/
theorem isSample_avgEnd (ha : IsSample a) (hb : IsSample b) : IsSample ((a + 3 * b + 2) / 4) := by
  unfold IsSample at *
  omega

/-- R102: every neighbour sample is an int8, be its cell poison. -/
structure Neighbours.AreSamples (n : Neighbours) : Prop where
  t0 : IsSample n.t0
  t1 : IsSample n.t1
  t2 : IsSample n.t2
  t3 : IsSample n.t3
  t4 : IsSample n.t4
  t5 : IsSample n.t5
  t6 : IsSample n.t6
  t7 : IsSample n.t7
  l0 : IsSample n.l0
  l1 : IsSample n.l1
  l2 : IsSample n.l2
  l3 : IsSample n.l3
  q : IsSample n.q

theorem neighbours_areSamples (o : Operands) (s : State) : (neighbours o s).AreSamples := by
  constructor <;> exact entryInt_bounds _

theorem isSample_dcValue {n : Neighbours} (h : n.AreSamples) (la ta : Bool) :
    IsSample (dcValue la ta n) := by
  obtain ⟨⟩ := h
  unfold IsSample at *
  match la, ta with
  | false, false => exact isSample_zero
  | true, true => simp only [dcValue, leftSum, topSum, shr_three]; omega
  | true, false => simp only [dcValue, leftSum, shr_two]; omega
  | false, true => simp only [dcValue, topSum, shr_two]; omega

/-- R130 to R138: every entry of every predictor is a sample or an average of samples. -/
theorem table_isSample (i : Instr) {n : Neighbours} (h : n.AreSamples) :
    ∀ row ∈ (kernelOf i).table i.operands n, ∀ v ∈ row, IsSample v := by
  have hdc := isSample_dcValue h
  obtain ⟨⟩ := h
  cases i <;>
    simp [kernelOf, kernelV, tableV, kernelH, tableH, kernelDc, tableDc, kernelDdl, tableDdl,
      kernelDdr, tableDdr, kernelVr, tableVr, kernelHd, tableHd, kernelVl, tableVl, kernelHu, tableHu,
      isSample_avg2, isSample_avg3, isSample_avgEnd, *]

theorem forall_getD {α : Type} {P : α → Prop} {l : List α} {d : α} (h : ∀ a ∈ l, P a) (hd : P d)
    (n : Nat) : P (l.getD n d) := by
  obtain hn | hn := Nat.lt_or_ge n l.length
  · rw [List.getD_eq_getElem _ _ hn]
    exact h _ (List.getElem_mem hn)
  · rwa [List.getD_eq_default _ _ hn]

theorem tableAt_isSample (i : Instr) (o : Operands) (s : State) (x y : Nat) :
    IsSample (tableAt ((kernelOf i).table i.operands (neighbours o s)) x y) :=
  have hrows := table_isSample i (neighbours_areSamples o s)
  forall_getD (forall_getD hrows (List.forall_mem_nil _) y) isSample_zero x

/-- R9, R106: an int8 predictor is what a zero residual gives. -/
theorem clip_zero_add (h : IsSample a) : min 127 (max (-128) (0 + a)) = a := by
  unfold IsSample at h
  omega

/-- No neighbour cell is a residual. -/
theorem neighbourEntry_with_resid (m : Memory 32) (c : Neighbour) :
    neighbourEntry o { s with resid := m } c = neighbourEntry o s c := by
  cases c <;> rfl

/-- Settles O17: both states give the same predictor, and the zero residual writes it unclipped. -/
theorem residualAddsToZeroResidualOutput : Obligations.ResidualAddsToZeroResidualOutput := by
  unfold Obligations.ResidualAddsToZeroResidualOutput
  intro i s m R hrange hcache hcells hzero hresid
  rw [← reads_kernelOf] at hcells
  have hpoison : readsPoison (kernelOf i) i.operands s = false :=
    (readsPoison_eq_false _ _ _).2 ⟨hcells, fun j hj => (hzero j hj).1⟩
  have hpoison' : readsPoison (kernelOf i) i.operands { s with resid := m } = false :=
    (readsPoison_eq_false _ _ _).2 ⟨fun c hc => neighbourEntry_with_resid m c ▸ hcells c hc,
      fun j hj => (hresid j hj).1⟩
  have hdrawn : drawsOutputs (kernelOf i) i.operands s = false :=
    drawsOutputs_kernelOf_eq_false (.inl hcache)
  refine ⟨_, _, exec_of_inRange hrange, exec_of_inRange (s := { s with resid := m }) hrange,
    fun x hx y hy => ?_⟩
  have hj : 4 * y + x < 16 := by omega
  have hshown := (holds_outEntry hpoison hdrawn (hzero _ hj).2 rfl).2
  rw [clip_zero_add (tableAt_isSample ..)] at hshown
  rw [← pixIndex_eq, acceptCommand_pixOutAt _ _ _ hx hy, acceptCommand_pixOutAt _ _ _ hx hy, hshown]
  exact holds_outEntry hpoison' hdrawn (hresid _ hj).2 rfl

end Sys2Proof.Machine
end

section
/-! The invariants of the machine (R20, R27, R32, R33).  `KeptByParts` packages the induction: a property
kept by the parts that steps are made of is kept by every step. -/

namespace Sys2Proof.Machine

variable {P : State → Prop} {k : Kernel} {o : Operands} {s t : State} {slot : Slot} {v : Word}

/-- The property is kept by every part of a step: the updates of the registers and of the model's own
fields, the writes of a value to a mapped slot, the reset event and an accepted command. -/
structure KeptByParts (P : State → Prop) : Prop where
  setPending : ∀ {s} (l : List HostEvent), P s → P (s.setPending l)
  answer : ∀ {s} (r : Response), P s → P (s.answer r)
  setCmd : ∀ {s} (w : Word), P s → P (s.setCmd w)
  setStatus : ∀ {s} (st : Status), st.lastErr = s.status.lastErr ∨ st.lastErr.toNat ≤ 4 → P s →
    P (s.setStatus st)
  resetEvent : ∀ {s}, P s → P s.resetEvent
  setResid : ∀ {s} {i : Nat} (v : BitVec 32), i < 16 → P s → P (s.setResid [(i, .val v)])
  setPixOut : ∀ {s} {i : Nat} (v : BitVec 8), i < 256 → P s → P (s.setPixOut [(i, .val v)])
  setLeftRow : ∀ {s} {i : Nat} (v : BitVec 8), i < 16 → P s → P (s.setLeftRow [(i, .val v)])
  setTopLeft : ∀ {s} {i : Nat} (v : BitVec 8), i < 4 → P s → P (s.setTopLeft [(i, .val v)])
  setTopLine : ∀ {s} {i : Nat} (v : BitVec 8), i < s.params.tlLen → P s → P (s.setTopLine [(i, .val v)])
  acceptCommand : ∀ {s} {i : Instr}, i.WellFormed →
    topIndex i.operands + (kernelOf i).topReach i.operands < s.params.tlLen → P s →
    P (acceptCommand (kernelOf i) i.operands s)

namespace KeptByParts

theorem busError (hP : KeptByParts P) (b : Bool) (hs : P s) : P (s.busError b) :=
  hP.answer _ (hP.setStatus _ (.inl rfl) hs)

theorem writeSlot (hP : KeptByParts P) (h : Machine.writeSlot s slot v = .next t)
    (hslot : slot.Mapped s.params) (hs : P s) : P t := by
  rcases writeSlot_cases h with ⟨-, i, hdecode, hrange, rfl⟩ | ⟨-, c, hc, rfl⟩ | ⟨-, rfl⟩ | ⟨-, rfl⟩ |
    ⟨i, rfl, rfl⟩ | ⟨i, rfl, rfl⟩ | ⟨i, rfl, rfl⟩ | ⟨i, rfl, rfl⟩ | ⟨i, rfl, rfl⟩
  · exact hP.acceptCommand (wellFormed_of_decodeWord hdecode) hrange (hP.setCmd _ (hP.answer _ hs))
  · exact hP.setStatus _ (.inr hc) (hP.setCmd _ (hP.answer _ hs))
  · exact hP.answer _ (hP.setStatus _ (.inl rfl) hs)
  · exact hP.busError _ hs
  · exact hP.answer _ (hP.setResid _ hslot hs)
  · exact hP.answer _ (hP.setLeftRow _ hslot hs)
  · exact hP.answer _ (hP.setTopLeft _ hslot hs)
  · exact hP.answer _ (hP.setPixOut _ hslot hs)
  · exact hP.answer _ (hP.setTopLine _ hslot hs)

theorem step (hP : KeptByParts P) (h : Machine.step s = .next t) (hs : P s) : P t := by
  rcases step_cases h with ⟨-, rfl⟩ | ⟨rest, -, rfl⟩ | ⟨-, rest, b, -, -, rfl⟩ | ⟨-, rest, w, -, rfl⟩ |
    ⟨v, slot, rest, -, hslot, hwrite⟩
  · exact hs
  · exact hP.resetEvent (hP.setPending _ hs)
  · exact hP.busError _ (hP.setPending _ hs)
  · exact hP.answer _ (hP.setPending _ hs)
  · exact hP.writeSlot hwrite hslot (hP.setPending _ hs)

end KeptByParts

/-! ### Soundness -/

theorem pixIndex_lt {x y : Nat} (ho : o.WellFormed) (hx : x < 4) (hy : y < 4) :
    pixIndex o x y < 256 := by
  obtain ⟨⟨hx4, hxle⟩, ⟨hy4, hyle⟩, -⟩ := ho
  unfold pixIndex
  omega

theorem band_lt (ho : o.WellFormed) : band o < 4 := by
  obtain ⟨-, ⟨-, hyle⟩, -⟩ := ho
  unfold band
  omega

namespace State.Sound

theorem setResid {l : List (Nat × Entry 32)} (h : s.Sound) (hl : ∀ c ∈ l, c.1 < 16) :
    (s.setResid l).Sound :=
  { h with
    resid := memSetAll_wellFormed h.resid
    residLength := memSetAll_below h.residLength hl }

theorem setPixOut {l : List (Nat × Entry 8)} (h : s.Sound) (hl : ∀ c ∈ l, c.1 < 256) :
    (s.setPixOut l).Sound :=
  { h with
    pixOut := memSetAll_wellFormed h.pixOut
    pixOutLength := memSetAll_below h.pixOutLength hl }

theorem setLeftRow {l : List (Nat × Entry 8)} (h : s.Sound) (hl : ∀ c ∈ l, c.1 < 16) :
    (s.setLeftRow l).Sound :=
  { h with
    leftRow := memSetAll_wellFormed h.leftRow
    leftRowLength := memSetAll_below h.leftRowLength hl }

theorem setTopLeft {l : List (Nat × Entry 8)} (h : s.Sound) (hl : ∀ c ∈ l, c.1 < 4) :
    (s.setTopLeft l).Sound :=
  { h with
    topLeft := memSetAll_wellFormed h.topLeft
    topLeftLength := memSetAll_below h.topLeftLength hl }

theorem setTopLine {l : List (Nat × Entry 8)} (h : s.Sound) (hl : ∀ c ∈ l, c.1 < s.params.tlLen) :
    (s.setTopLine l).Sound :=
  { h with
    topLine := memSetAll_wellFormed h.topLine
    topLineLength := memSetAll_below h.topLineLength hl }

theorem setStatus {st : Status} (h : s.Sound) (hst : st.lastErr.toNat ≤ 4) : (s.setStatus st).Sound :=
  { h with lastErr := hst }

theorem nextDraw (h : s.Sound) : s.nextDraw.Sound :=
  { h with }

theorem setPending (h : s.Sound) (l : List HostEvent) : (s.setPending l).Sound :=
  { h with }

theorem answer (h : s.Sound) (r : Response) : (s.answer r).Sound :=
  { h with }

theorem setCmd (h : s.Sound) (w : Word) : (s.setCmd w).Sound :=
  { h with }

/-- R107 to R110: a command in range with encodable operands writes inside every array. -/
theorem acceptCommand (h : s.Sound) (ho : o.WellFormed) (hrange : topIndex o + 3 < s.params.tlLen) :
    (acceptCommand k o s).Sound := by
  have hpix : ∀ c ∈ pixWrites k o s, c.1 < 256 := fun c hc => by
    obtain ⟨x, y, hx, hy, hindex, -⟩ := (mem_pixWrites k o s).1 hc
    exact hindex ▸ pixIndex_lt ho hx hy
  have hcorner : ∀ c ∈ cornerWrites k o s, c.1 < 4 := List.forall_mem_singleton.2 (band_lt ho)
  have hleft : ∀ c ∈ leftWrites k o s, c.1 < 16 := fun c hc => by
    obtain ⟨-, ⟨-, hyle⟩, -⟩ := ho
    obtain ⟨y, hy, hindex, -⟩ := (mem_leftWrites k o s).1 hc
    omega
  have htop : ∀ c ∈ topWrites k o s, c.1 < s.params.tlLen := fun c hc => by
    obtain ⟨x, hx, hindex, -⟩ := (mem_topWrites k o s).1 hc
    omega
  have harrays := (((h.setPixOut hpix).setTopLeft hcorner).setLeftRow hleft).setTopLine htop
  exact (harrays.setStatus (st := statusAccept s.status) (Nat.zero_le 4)).nextDraw

end State.Sound

/-- R32: the reset content is sound for all legal parameters. -/
theorem sound_resetWith {p : Params} (hp : p.WellFormed) : (State.resetWith p).Sound where
  params := hp
  resid := rfl
  pixOut := rfl
  leftRow := rfl
  topLeft := rfl
  topLine := rfl
  residLength := List.forall_mem_nil _
  pixOutLength := List.forall_mem_nil _
  leftRowLength := List.forall_mem_nil _
  topLeftLength := List.forall_mem_nil _
  topLineLength := List.forall_mem_nil _
  lastErr := Nat.zero_le 4

/-- Settles O31: every array is empty, and the parameters of `State.reset` are legal. -/
theorem resetIsSound : Obligations.ResetIsSound := by
  unfold Obligations.ResetIsSound
  exact ⟨fun _ => sound_resetWith, sound_resetWith (by decide)⟩

theorem sound_keptByParts : KeptByParts State.Sound where
  setPending l h := h.setPending l
  answer r h := h.answer r
  setCmd w h := h.setCmd w
  setStatus _ hst h := h.setStatus (hst.elim (fun heq => heq ▸ h.lastErr) id)
  resetEvent h := { sound_resetWith h.params with }
  setResid _ hi h := h.setResid (List.forall_mem_singleton.2 hi)
  setPixOut _ hi h := h.setPixOut (List.forall_mem_singleton.2 hi)
  setLeftRow _ hi h := h.setLeftRow (List.forall_mem_singleton.2 hi)
  setTopLeft _ hi h := h.setTopLeft (List.forall_mem_singleton.2 hi)
  setTopLine _ hi h := h.setTopLine (List.forall_mem_singleton.2 hi)
  acceptCommand {_ i} hi hrange h :=
    h.acceptCommand hi ((Nat.add_le_add_left (three_le_topReach i) _).trans_lt hrange)

/-- Settles O30: every part of a step keeps the arrays canonical and of their lengths. -/
theorem stepKeepsSoundness : Obligations.StepKeepsSoundness := by
  unfold Obligations.StepKeepsSoundness
  exact fun _ _ hs h => sound_keptByParts.step h hs

/-! ### Freedom from poison -/

theorem residFill_ne_poison {p : Params} (hp : p.resetFill ≠ .poison) : residFill p ≠ .poison := by
  cases hfill : p.resetFill with
  | poison => exact absurd hfill hp
  | val f => rw [residFill_of_val hfill]; exact nofun

namespace State.NoPoison

theorem setResid {l : List (Nat × Entry 32)} (h : s.NoPoison) (hl : ∀ c ∈ l, c.2 ≠ .poison) :
    (s.setResid l).NoPoison :=
  { h with resid := memSetAll_ne_poison h.resid hl }

theorem setPixOut {l : List (Nat × Entry 8)} (h : s.NoPoison) (hl : ∀ c ∈ l, c.2 ≠ .poison) :
    (s.setPixOut l).NoPoison :=
  { h with pixOut := memSetAll_ne_poison h.pixOut hl }

theorem setLeftRow {l : List (Nat × Entry 8)} (h : s.NoPoison) (hl : ∀ c ∈ l, c.2 ≠ .poison) :
    (s.setLeftRow l).NoPoison :=
  { h with leftRow := memSetAll_ne_poison h.leftRow hl }

theorem setTopLeft {l : List (Nat × Entry 8)} (h : s.NoPoison) (hl : ∀ c ∈ l, c.2 ≠ .poison) :
    (s.setTopLeft l).NoPoison :=
  { h with topLeft := memSetAll_ne_poison h.topLeft hl }

theorem setTopLine {l : List (Nat × Entry 8)} (h : s.NoPoison) (hl : ∀ c ∈ l, c.2 ≠ .poison) :
    (s.setTopLine l).NoPoison :=
  { h with topLine := memSetAll_ne_poison h.topLine hl }

/-- R33: with no poison anywhere a command reads none. -/
theorem readsPoison_eq_false (h : s.NoPoison) : readsPoison k o s = false := by
  refine (Machine.readsPoison_eq_false k o s).2 ⟨fun c _ => ?_, fun j _ => h.resid j⟩
  cases c with
  | top => exact h.topLine _
  | left => exact h.leftRow _
  | corner => exact h.topLeft _

/-- R104, R106, R108: a command that reads only values writes only values, drawn ones included. -/
theorem acceptCommand (h : s.NoPoison) : (acceptCommand k o s).NoPoison := by
  have hreads : readsPoison k o s = false := h.readsPoison_eq_false
  have hout := outEntry_ne_poison hreads
  have hpix : ∀ c ∈ pixWrites k o s, c.2 ≠ .poison := fun c hc => by
    obtain ⟨x, y, -, -, -, hentry⟩ := (mem_pixWrites k o s).1 hc
    exact hentry ▸ hout x y
  have hcorner : ∀ c ∈ cornerWrites k o s, c.2 ≠ .poison :=
    List.forall_mem_singleton.2 (cornerEntry_of_values k o s hreads ▸ h.topLine _)
  have hleft : ∀ c ∈ leftWrites k o s, c.2 ≠ .poison := fun c hc => by
    obtain ⟨y, -, -, hentry⟩ := (mem_leftWrites k o s).1 hc
    exact hentry ▸ hout 3 y
  have htop : ∀ c ∈ topWrites k o s, c.2 ≠ .poison := fun c hc => by
    obtain ⟨x, -, -, hentry⟩ := (mem_topWrites k o s).1 hc
    exact hentry ▸ hout x 3
  exact { (((h.setPixOut hpix).setTopLeft hcorner).setLeftRow hleft).setTopLine htop with }

end State.NoPoison

/-- R32: an array that nothing has written reads as its fill. -/
theorem noPoison_resetWith {p : Params} (hp : p.resetFill ≠ .poison) : (State.resetWith p).NoPoison where
  resid _ := residFill_ne_poison hp
  pixOut _ := hp
  leftRow _ := hp
  topLeft _ := hp
  topLine _ := hp

/-- Settles O33: every entry is `RESET_FILL`, sign-extended in `RESID`. -/
theorem resetWithFixedFillHasNoPoison : Obligations.ResetWithFixedFillHasNoPoison := by
  unfold Obligations.ResetWithFixedFillHasNoPoison
  exact fun _ => noPoison_resetWith

/-- `RESET_FILL` is a value, so that a reset poisons nothing either. -/
theorem noPoison_keptByParts :
    KeptByParts fun s => s.params.resetFill ≠ .poison ∧ s.NoPoison where
  setPending _ h := ⟨h.1, { h.2 with }⟩
  answer _ h := ⟨h.1, { h.2 with }⟩
  setCmd _ h := ⟨h.1, { h.2 with }⟩
  setStatus _ _ h := ⟨h.1, { h.2 with }⟩
  resetEvent h := ⟨h.1, { noPoison_resetWith h.1 with }⟩
  setResid _ _ h := ⟨h.1, h.2.setResid (List.forall_mem_singleton.2 nofun)⟩
  setPixOut _ _ h := ⟨h.1, h.2.setPixOut (List.forall_mem_singleton.2 nofun)⟩
  setLeftRow _ _ h := ⟨h.1, h.2.setLeftRow (List.forall_mem_singleton.2 nofun)⟩
  setTopLeft _ _ h := ⟨h.1, h.2.setTopLeft (List.forall_mem_singleton.2 nofun)⟩
  setTopLine _ _ h := ⟨h.1, h.2.setTopLine (List.forall_mem_singleton.2 nofun)⟩
  acceptCommand _ _ h := ⟨h.1, h.2.acceptCommand⟩

/-- Settles O32: the host writes values only, a command writes values when it reads values, and a reset
writes `RESET_FILL`. -/
theorem stepKeepsArraysFreeOfPoison : Obligations.StepKeepsArraysFreeOfPoison := by
  unfold Obligations.StepKeepsArraysFreeOfPoison
  intro s t hfill hs h
  obtain ⟨-, ht⟩ := noPoison_keptByParts.step h ⟨hfill, hs⟩
  exact ht

end Sys2Proof.Machine
end

section
/-! What one step does, by the event it takes: the command it runs (R59, R92), what it does to `STATUS`
and `RESID` (R21, R27, R182), and where it stops (R50). -/

namespace Sys2Proof.Machine

variable {s t : State} {k : Slot} {v w : Word} {addr size : Nat} {rest : List HostEvent}

/-! ### The write of a command -/

theorem runCommand_of_instr {i : Instr} (h : decodeWord w = .instr i) (s : State) :
    runCommand w s = exec i (s.setCmd w) := by
  rw [runCommand, h]

theorem runCommand_of_illegal {e : DecodeError} (h : decodeWord w = .illegal e) (s : State) :
    runCommand w s = .next ((s.setCmd w).reject (errorCode e)) := by
  rw [runCommand, h]

/-- Settles O27: the step runs the word written, and the decoder says which command or error that is. -/
theorem stepRunsTheDecodedCommand : Obligations.StepRunsTheDecodedCommand := by
  unfold Obligations.StepRunsTheDecodedCommand
  intro s w rest hp
  have hstep := step_write_cmd hp
  exact ⟨fun i h => hstep.trans (runCommand_of_instr h _),
    fun h => hstep.trans (runCommand_of_illegal h _),
    fun h => hstep.trans (runCommand_of_illegal h _),
    fun h => hstep.trans (runCommand_of_illegal h _)⟩

/-- Settles O28: the line's one event writes the command's encoding, which decodes to the command. -/
theorem assembledLineRunsItsCommand : Obligations.AssembledLineRunsItsCommand := by
  unfold Obligations.AssembledLineRunsItsCommand
  intro i s rest hi hp
  exact (step_write_cmd hp).trans (runCommand_of_instr (decodeOfEncodeIsTheCommand i hi) _)

/-! ### `STATUS` -/

/-- The sticky bits are at most gained, and `BUSERR_STICKY` not even that: what every event does to them
but a reset, a bus error and a write to `STATUS`. -/
def StickyKept (s t : State) : Prop :=
  (s.status.errSticky = true → t.status.errSticky = true) ∧
    t.status.busErrSticky = s.status.busErrSticky

/-- R27: what a write to a slot does to `STATUS`. -/
theorem writeSlot_status_cases (h : writeSlot s k v = .next t) :
    (k = .status ∧ t.status = statusWrite v s.status) ∨ (k = .config ∧ t = s.busError false) ∨
      StickyKept s t := by
  rcases writeSlot_cases h with ⟨-, i, -, -, rfl⟩ | ⟨-, c, -, rfl⟩ | ⟨rfl, rfl⟩ | ⟨rfl, rfl⟩ |
    ⟨i, -, rfl⟩ | ⟨i, -, rfl⟩ | ⟨i, -, rfl⟩ | ⟨i, -, rfl⟩ | ⟨i, -, rfl⟩
  case inr.inr.inl => exact .inl ⟨rfl, rfl⟩
  case inr.inr.inr.inl => exact .inr (.inl ⟨rfl, rfl⟩)
  case inr.inl => exact .inr (.inr ⟨fun _ => rfl, rfl⟩)
  all_goals exact .inr (.inr ⟨id, rfl⟩)

/-- R27, R179, R182: what a step does to `STATUS`. -/
theorem step_status_cases (h : step s = .next t) :
    (s.pending.head? = some .reset ∧ t.status.busErrSticky = false) ∨
    (∃ v, s.pending.head? = some (.write (s.params.base + 0x00004) 4 v) ∧
      t.status = statusWrite v s.status) ∨
    (t.HostFaulted ∧ t.status = statusBusError s.status) ∨ StickyKept s t := by
  rcases step_cases h with ⟨-, rfl⟩ | ⟨rest, hp, rfl⟩ | ⟨-, rest, b, -, -, rfl⟩ | ⟨-, rest, w, -, rfl⟩ |
    ⟨v, k, rest, hp, -, hwrite⟩
  · exact .inr (.inr (.inr ⟨id, rfl⟩))
  · exact .inl ⟨hp ▸ rfl, rfl⟩
  · exact .inr (.inr (.inl ⟨⟨_, rfl⟩, rfl⟩))
  · exact .inr (.inr (.inr ⟨id, rfl⟩))
  · rcases writeSlot_status_cases hwrite with ⟨rfl, hstatus⟩ | ⟨rfl, rfl⟩ | hkept
    · exact .inr (.inl ⟨v, hp ▸ rfl, hstatus⟩)
    · exact .inr (.inr (.inl ⟨⟨_, rfl⟩, rfl⟩))
    · exact .inr (.inr (.inr hkept))

/-- A flag cleared by the write that clears it on a written 1. -/
theorem eq_one_of_cleared {b : Bool} {n : Nat} (hset : b = true)
    (hclear : (if n % 2 = 1 then false else b) = false) : n % 2 = 1 := by
  by_contra hn
  rw [if_neg hn, hset] at hclear
  cases hclear

/-- Settles O35: no step but a reset and a write to `STATUS` clears a sticky bit, and that write clears
those with a 1 written to them. -/
theorem stickyBitsClearedOnlyByHostOrReset : Obligations.StickyBitsClearedOnlyByHostOrReset := by
  unfold Obligations.StickyBitsClearedOnlyByHostOrReset
  intro s t h
  rcases step_status_cases h with ⟨hreset, -⟩ | ⟨v, hp, hstatus⟩ | ⟨-, hstatus⟩ | ⟨herr, hbus⟩
  · exact ⟨fun _ _ => .inl hreset, fun _ _ => .inl hreset⟩
  · rw [hstatus, statusWrite_eq]
    exact ⟨fun hset hclear => .inr ⟨v, hp, eq_one_of_cleared hset hclear⟩,
      fun hset hclear => .inr ⟨v, hp, eq_one_of_cleared hset hclear⟩⟩
  · rw [hstatus]
    exact ⟨fun hset hclear => absurd (hset.symm.trans hclear) nofun, fun _ hclear => nomatch hclear⟩
  · rw [hbus]
    exact ⟨fun hset hclear => absurd ((herr hset).symm.trans hclear) nofun,
      fun hset hclear => absurd (hset.symm.trans hclear) nofun⟩

/-- R179: only a faulty transaction sets `BUSERR_STICKY`. -/
theorem busErrSticky_of_step (h : step s = .next t) (hfault : ¬ t.HostFaulted)
    (hset : t.status.busErrSticky = true) : s.status.busErrSticky = true := by
  rcases step_status_cases h with ⟨-, hclear⟩ | ⟨v, -, hstatus⟩ | ⟨hfaulted, -⟩ | ⟨-, hbus⟩
  · exact absurd (hset.symm.trans hclear) nofun
  · rw [hstatus, statusWrite, Bool.and_eq_true] at hset
    exact hset.1
  · exact absurd hfaulted hfault
  · exact hbus ▸ hset

/-- Settles O38: by induction on the length of the run. -/
theorem safeRunSetsNoBusError : Obligations.SafeRunSetsNoBusError := by
  unfold Obligations.SafeRunSetsNoBusError
  intro n
  induction n with
  | zero =>
    rintro s t hs rfl
    exact ⟨hs, id⟩
  | succ n ih =>
    rintro s t hs ⟨u, hstep, hfault, hrun⟩
    obtain ⟨ht, hbus⟩ := ih u t (sound_keptByParts.step hstep hs) hrun
    exact ⟨ht, fun hset => busErrSticky_of_step hstep hfault (hbus hset)⟩

/-! ### `RESID` and the parameters -/

theorem params_keptByParts (p : Params) : KeptByParts fun s => s.params = p where
  setPending _ := id
  answer _ := id
  setCmd _ := id
  setStatus _ _ := id
  resetEvent := id
  setResid _ _ := id
  setPixOut _ _ := id
  setLeftRow _ _ := id
  setTopLeft _ _ := id
  setTopLine _ _ := id
  acceptCommand _ _ := id

/-- R21: of the writes to slots only one to `RESID` changes a residual, and only its own. -/
theorem writeSlot_residAt (h : writeSlot s k v = .next t) (j : Nat) (hk : k ≠ .resid j) :
    t.residAt j = s.residAt j := by
  rcases writeSlot_cases h with ⟨-, i, -, -, rfl⟩ | ⟨-, c, -, rfl⟩ | ⟨-, rfl⟩ | ⟨-, rfl⟩ |
    ⟨i, rfl, rfl⟩ | ⟨i, -, rfl⟩ | ⟨i, -, rfl⟩ | ⟨i, -, rfl⟩ | ⟨i, -, rfl⟩
  case inr.inr.inr.inr.inl => exact memGet_store_of_ne hk
  all_goals rfl

/-- Settles O36: of the events of `step_cases` only a reset and a write to a residual's slot change
it. -/
theorem residChangesOnlyByHostOrReset : Obligations.ResidChangesOnlyByHostOrReset := by
  unfold Obligations.ResidChangesOnlyByHostOrReset
  intro s t h
  refine ⟨(params_keptByParts s.params).step h rfl, fun j => ?_⟩
  rcases step_cases h with ⟨-, rfl⟩ | ⟨rest, hp, -⟩ | ⟨-, rest, b, -, -, rfl⟩ | ⟨-, rest, w, -, rfl⟩ |
    ⟨v, k, rest, hp, -, hwrite⟩
  · exact .inl rfl
  · exact .inr (.inl (hp ▸ rfl))
  · exact .inl rfl
  · exact .inl rfl
  · by_cases hk : k = .resid j
    · subst hk
      rw [slotOffset, ← Nat.add_assoc] at hp
      exact .inr (.inr ⟨v, hp ▸ rfl⟩)
    · exact .inl (writeSlot_residAt hwrite j hk)

/-! ### Where a step stops -/

theorem hostRead_completes (hw : inWindow s.params addr = true) :
    ∃ t, hostRead addr size s = .next t ∧ t.pending = s.pending := by
  cases hk : accessSlot s.params (addr - s.params.base) size with
  | none => exact ⟨_, hostRead_of_none hw hk, rfl⟩
  | some k => exact ⟨_, hostRead_of_slot hw hk, rfl⟩

/-- R140, R182: a write to a slot completes, be it a command of any kind. -/
theorem writeSlot_completes (s : State) (k : Slot) (v : Word) :
    ∃ t, writeSlot s k v = .next t ∧ t.pending = s.pending := by
  cases k with
  | cmd =>
    rcases runCommand_cases v (s.answer writeDone) with ⟨i, -, h⟩ | ⟨c, -, -, h⟩
    · exact ⟨_, h, rfl⟩
    · exact ⟨_, h, rfl⟩
  | _ => exact ⟨_, rfl, rfl⟩

theorem hostWrite_completes (hw : inWindow s.params addr = true) :
    ∃ t, hostWrite addr size v s = .next t ∧ t.pending = s.pending := by
  cases hk : accessSlot s.params (addr - s.params.base) size with
  | none => exact ⟨_, hostWrite_of_none hw hk, rfl⟩
  | some k => exact hostWrite_of_slot hw hk ▸ writeSlot_completes s k v

/-- Settles O37: a transaction in the window reaches a slot or is a bus error, and both complete. -/
theorem stepStopsOnlyOutsideTheWindow : Obligations.StepStopsOnlyOutsideTheWindow := by
  unfold Obligations.StepStopsOnlyOutsideTheWindow
  intro s
  refine ⟨step_of_idle, fun hhead => ?_, fun addr size hhead => ?_, fun addr size v hhead => ?_⟩
  all_goals
    obtain ⟨rest, hp⟩ := List.head?_eq_some_iff.1 hhead
    rw [hp, step_of_pending hp]
  · exact ⟨_, rfl, rfl⟩
  · split_ifs with hw
    · exact hostRead_completes (s := s.setPending rest) (inWindow_iff.2 hw)
    · exact hostRead_outside (s := s.setPending rest) (mt inWindow_iff.1 hw)
  · split_ifs with hw
    · exact hostWrite_completes (s := s.setPending rest) (inWindow_iff.2 hw)
    · exact hostWrite_outside (s := s.setPending rest) (mt inWindow_iff.1 hw)

end Sys2Proof.Machine
end

section
/-! The raster order inside a macroblock (R204, R205): what the caches hold after its first `n` blocks, in
terms of the output plane. -/

namespace Sys2Proof.Machine

variable {mb n c : Nat} {o : Operands} {i : Instr} {l : List Instr} {s t v : State}

/-- The caches after the first `n` blocks of the macroblock at `mb`, begun in `s`.  Column `c` of it has
then `(n + 3 - c / 4) / 4` rows of blocks, and the block row begun is `n / 4`, with `n % 4` blocks. -/
structure RasterInvariant (mb n : Nat) (s t : State) : Prop where
  /-- R110: each column's lowest reconstructed sample. -/
  top : ∀ c < 16, c / 4 < n →
    t.topLineAt (mb + c) = t.pixOutAt (16 * (4 * ((n + 3 - c / 4) / 4) - 1) + c)
  /-- R109: the right column of the last block of the row begun. -/
  left : 0 < n % 4 → ∀ j < 4,
    t.leftRowAt (4 * (n / 4) + j) = t.pixOutAt (16 * (4 * (n / 4) + j) + 4 * (n % 4) - 1)
  /-- R108: the sample above that column, unless its command read poison. -/
  corner : 0 < n % 4 → 0 < n / 4 → t.topLeftAt (n / 4) ≠ .poison →
    t.topLeftAt (n / 4) = t.pixOutAt (16 * (4 * (n / 4) - 1) + 4 * (n % 4) - 1)
  /-- R111: the cells right of the macroblock are not written. -/
  right : ∀ i < 4, t.topLineAt (mb + 16 + i) = s.topLineAt (mb + 16 + i)

theorem rasterInvariant_zero (mb : Nat) (s : State) : RasterInvariant mb 0 s s where
  top _ _ h := absurd h (Nat.not_lt_zero _)
  left h := absurd h (lt_irrefl 0)
  corner h := absurd h (lt_irrefl 0)
  right _ _ := rfl

/-- R202: what the host may do between the commands leaves all that the invariant speaks of. -/
theorem RasterInvariant.of_sameSamples (h : RasterInvariant mb n s t) (hsame : SameSamples t v) :
    RasterInvariant mb n s v where
  top c hc hdone := by rw [hsame.topLine, hsame.pixOut, h.top c hc hdone]
  left hbegun j hj := by rw [hsame.leftRow, hsame.pixOut, h.left hbegun j hj]
  corner hbegun hrow hval := by
    rw [hsame.topLeft] at hval ⊢
    rw [hsame.pixOut, h.corner hbegun hrow hval]
  right i hi := by rw [hsame.topLine, h.right i hi]

/-- R204: above a block not yet reconstructed the row above it is still in the top cache. -/
theorem RasterInvariant.above (h : RasterInvariant mb n s t) (hc : c < 16) (hrow : 0 < n / 4)
    (hcol : n % 4 ≤ c / 4) : t.topLineAt (mb + c) = t.pixOutAt (16 * (4 * (n / 4) - 1) + c) := by
  have hrows : (n + 3 - c / 4) / 4 = n / 4 := by omega
  rw [h.top c hc (by omega), hrows]

/-- R107: a block leaves the other columns of the macroblock, and the rows above it. -/
theorem Accepted.pixOutAt_of_ne {corner : Entry 8} {good : Nat → Nat → Entry 8 → Prop} {r : Nat}
    (h : Accepted o t v corner good) (ho : IsRasterBlock n mb o) (hc : c < 16)
    (hne : c / 4 ≠ n % 4 ∨ r < 4 * (n / 4)) : v.pixOutAt (16 * r + c) = t.pixOutAt (16 * r + c) := by
  obtain ⟨hx, hy, -⟩ := ho
  exact h.outputFrame _ fun x hx' y hy' => by omega

/-- R110: a block leaves the top cache's cells of other columns. -/
theorem Accepted.topLineAt_of_ne {corner : Entry 8} {good : Nat → Nat → Entry 8 → Prop}
    (h : Accepted o t v corner good) (ho : IsRasterBlock n mb o)
    (hne : c / 4 ≠ n % 4) : v.topLineAt (mb + c) = t.topLineAt (mb + c) := by
  obtain ⟨hx, -, hmb⟩ := ho
  exact h.topFrame _ fun x hx' => by omega

/-- R107 to R110: the command of the next block. -/
theorem RasterInvariant.accept (h : RasterInvariant mb n s t) (ho : IsRasterBlock n mb o)
    {corner : Entry 8} (hcorner : corner = .poison ∨ corner = oldCorner o t)
    (haccepted : Accepted o t v corner fun _ _ _ => True) : RasterInvariant mb (n + 1) s v where
  top c hc hdone := by
    by_cases hcol : c / 4 = n % 4
    · obtain ⟨hx, hy, hmb⟩ := ho
      have htop := haccepted.top (c % 4) (Nat.mod_lt _ (by decide))
      rw [hx, hy, hmb] at htop
      convert htop using 2 <;> omega
    · rw [haccepted.topLineAt_of_ne ho hcol, haccepted.pixOutAt_of_ne ho hc (.inl hcol),
        h.top c hc (by omega)]
      congr 2
      omega
  left hbegun j hj := by
    obtain ⟨hx, hy, -⟩ := ho
    have hleft := haccepted.left j hj
    rw [hx, hy] at hleft
    convert hleft using 2 <;> omega
  corner hbegun hrow hval := by
    have hn : (n + 1) / 4 = n / 4 := by omega
    have hcell : v.topLeftAt (n / 4) = corner := by
      rw [← haccepted.corner, ho.2.1, Nat.mul_div_cancel_left _ (by decide)]
    rw [hn] at hrow hval ⊢
    rw [hcell] at hval ⊢
    calc corner = t.topLineAt (mb + (4 * (n % 4) + 3)) := by
          rw [hcorner.resolve_left hval, oldCorner, ho.1, ho.2.2, Nat.add_assoc]
      _ = t.pixOutAt (16 * (4 * (n / 4) - 1) + (4 * (n % 4) + 3)) :=
          h.above (by omega) hrow (by omega)
      _ = v.pixOutAt (16 * (4 * (n / 4) - 1) + (4 * (n % 4) + 3)) :=
          (haccepted.pixOutAt_of_ne ho (by omega) (.inr (by omega))).symm
      _ = v.pixOutAt (16 * (4 * (n / 4) - 1) + 4 * ((n + 1) % 4) - 1) := by congr 1; omega
  right i hi := by
    rw [Nat.add_assoc, haccepted.topLineAt_of_ne ho (by omega), ← Nat.add_assoc, h.right i hi]

/-- Each block after the first `n` keeps the invariant, and so does the host between them. -/
theorem RasterInvariant.runsCommands (h : RasterInvariant mb n s t)
    (hblocks : ∀ j i, l[j]? = some i → IsRasterBlock (n + j) mb i.operands)
    (hrun : RunsCommands l t v) : RasterInvariant mb (n + l.length) s v := by
  induction l generalizing n t with
  | nil => exact h.of_sameSamples hrun
  | cons i rest ih =>
    obtain ⟨u, w, hsame, hrange, hexec, hrest⟩ := hrun
    obtain ⟨w', hexec', haccepted⟩ := acceptedCommandWritesBlockAndCaches i u hrange
    obtain rfl : w = w' := by simpa [hexec] using hexec'
    have hcorner := ite_eq_or_eq (ReadsPoison i u) .poison (oldCorner i.operands u)
    have hnext := (h.of_sameSamples hsame).accept (hblocks 0 i rfl) hcorner haccepted
    have hstep := ih hnext (fun j i hj => by
      rw [Nat.add_right_comm]; exact hblocks (j + 1) i hj) hrest
    rwa [List.length_cons, Nat.add_comm rest.length, ← Nat.add_assoc]

/-- Settles O18: the invariant for `l.length` blocks, read at the next block's neighbours. -/
theorem rasterOrderGivesCausalNeighbours : Obligations.RasterOrderGivesCausalNeighbours := by
  unfold Obligations.RasterOrderGivesCausalNeighbours
  intro mb l s t o hlen hblocks hrun ho
  have h : RasterInvariant mb (0 + l.length) s t :=
    (rasterInvariant_zero mb s).runsCommands (fun j i hj => by simpa using hblocks j i hj) hrun
  rw [Nat.zero_add] at h
  obtain ⟨hx, hy, -⟩ := ho
  rw [hx, hy, Nat.mul_div_cancel_left _ (by decide)]
  refine ⟨fun hcol => h.left (by omega), fun hrow i hi => ?_,
    fun hcol hrow => h.corner (by omega) (by omega), fun hrow hcol i hi => ?_, fun hcol i hi => ?_⟩
  · rw [Nat.add_assoc, Nat.add_assoc]
    exact h.above (by omega) (by omega) (by omega)
  · rw [Nat.add_assoc, Nat.add_assoc, Nat.add_assoc, Nat.add_assoc]
    exact h.above (by omega) (by omega) (by omega)
  · rw [hcol]
    exact h.right i hi

end Sys2Proof.Machine
end
